-- ==== Sys2Proof/Word.lean ====
section
/-! DEFINITION. The word types: bytes of the wire and of the two buffers, and the 20-bit port word. -/

namespace Sys2Proof

/-- A byte: 8 bits, bit 0 least significant (00_scope.md section 5). -/
abbrev Byte := BitVec 8

/-- The 20-bit port word `PW` of 30_encoding.md R75. -/
abbrev PortWord := BitVec 20

/-- An encoded instruction: one byte of the wire (format W, 30_encoding.md R63) or one port word (format P, R75). -/
inductive RawWord where
  | wire (b : Byte)
  | port (pw : PortWord)
  deriving DecidableEq, Repr

end Sys2Proof
end

