-- ==== Sys2Proof/Config.lean ====
section
/-! DEFINITION. What the spec leaves to an implementation or to the environment: the open parameters of 00_scope.md R5,
the configuration inputs of R6, and the free values. The `opaque` constants have no body: nothing can be proved of their
values, so whatever is proved holds for every value (log 3, 4, 5). -/

namespace Sys2Proof

/-- STRAY_END (R5, decisions D5 and D6): what an end marker does that does not close the frame in progress. -/
inductive StrayEnd where
  | toIdle
  | asData
  deriving DecidableEq, Repr, Inhabited

/-- The parameters of 00_scope.md R5, fixed for the machine. `microstepShift` (`s`) has the legal range 0 to 8 as its type;
TICK_PERIOD is left out, since no rule depends on it (R252). -/
structure Params where
  microstepShift : Fin 9
  overrunMargin : Nat
  stepTable : Vector (BitVec 3) 6
  strayEnd : StrayEnd
  deriving DecidableEq, Repr, Inhabited

/-- The configuration inputs of 00_scope.md R6 and 10_state.md R30. -/
structure NodeConfig where
  nodeAddr : Byte
  minpos : BitVec 16
  maxpos : BitVec 16
  deriving DecidableEq, Repr, Inhabited

/-- The two byte memories of 20_memory.md R40; an index of one never reaches the other. -/
inductive BufferSpace where
  | rxBuf
  | txBuf
  deriving DecidableEq, Repr

/-- The parameters of the implementation (R5): DESIGN CHOICE, free value, log 3. -/
opaque Config.params : Params

/-- The levels of the configuration inputs when the machine comes out of reset (R30, R34): DESIGN CHOICE, free value, log 4. -/
opaque Config.bootInputs : NodeConfig

/-- What a cell of a buffer holds that nothing has written since reset (10_state.md R34, 93 entry U6): a free value of the
space, the number of RESET inputs taken so far and the index, log 5. -/
opaque Config.unwrittenCell : BufferSpace → Nat → Nat → Byte

end Sys2Proof
end

