-- ==== Sys2Proof/Machine/Constants.lean ====
section
/-! DEFINITION. The constants of 00_scope.md R4, each named once so that an audit changes one place (decision D30).
They stand here, not in Config.lean, so that a repair may mend a value. -/

namespace Sys2Proof

/-- FRAME_START: start marker of an addressed request frame. -/
def frameStart : Byte := 0x01
/-- REPLY_START: start marker of an unaddressed reply frame. -/
def replyStart : Byte := 0x02
/-- REPLY_END: end marker of a reply frame. -/
def replyEnd : Byte := 0x03
/-- FRAME_END: end marker of a request frame. -/
def frameEnd : Byte := 0x04
/-- ESCAPE: the escape prefix. -/
def escape : Byte := 0x1B
/-- ESC_THRESHOLD: content bytes below this are sent escaped. -/
def escThreshold : Nat := 0x20
/-- ESC_MASK: XOR-ed onto an escaped byte. -/
def escMask : Byte := 0x20
/-- MAX_PAYLOAD: largest payload length, and the size of the receive buffer. -/
def maxPayload : Nat := 16
/-- TXBUF_SIZE: size of the transmit buffer (decision D31). -/
def txBufSize : Nat := 16
/-- STEP_TABLE_SIZE: entries of the micro-step table. -/
def stepTableSize : Nat := 6
/-- RAMP_MAX: saturation value of `ramp`. -/
def rampMax : Nat := 0xFF
/-- RAMP_WIDTH: the constant 8 of the step-magnitude formula. -/
def rampWidth : Nat := 8
/-- The bound of 00_scope.md R7 on `maxpos + OVERRUN_MARGIN`. -/
def positionBound : Nat := 32767
/-- COIL_OFF: the all-de-energized pattern (10_state.md R26). -/
def coilOff : BitVec 3 := 0b000

end Sys2Proof
end

