-- ==== Sys2Proof/Syntax.lean ====
section
/-! DEFINITION. The instructions: one constructor per mnemonic of spec/opcode_table.json. -/

namespace Sys2Proof

/-- The symbol classes of a wire byte (30_encoding.md R63) and the operations of the port word (R75). -/
inductive Instr where
  /-- RX.FS, FRAME_START (R101). -/
  | rxFs
  /-- RX.RS, REPLY_START (R102). -/
  | rxRs
  /-- RX.RE, REPLY_END (R104). -/
  | rxRe
  /-- RX.FE, FRAME_END (R103). -/
  | rxFe
  /-- RX.ESC, ESCAPE (R105). -/
  | rxEsc
  /-- RX.DATA, every other byte `c` (R106 to R110); the table's eleven rows are this one instruction. -/
  | rxData (c : Byte)
  /-- RXBYTE c (R100). -/
  | rxbyte (c : Byte)
  /-- TXREADY (R133). -/
  | txready
  /-- TXCOMPLETE (R139). -/
  | txcomplete
  /-- TICK (R155). -/
  | tick
  /-- RXPOLL (R112). -/
  | rxpoll
  /-- RXR idx (R113). -/
  | rxr (idx : BitVec 4)
  /-- RXACK (R114). -/
  | rxack
  /-- TXW idx, b (R131). -/
  | txw (idx : BitVec 4) (b : Byte)
  /-- TXSTART len (R132). -/
  | txstart (len : BitVec 5)
  /-- TXSTAT (R142). -/
  | txstat
  /-- GOTO p (R151). -/
  | goto (p : BitVec 16)
  /-- ZERO (R152). -/
  | zero
  /-- OFF (R153). -/
  | off
  /-- GET (R154). -/
  | get
  /-- The reserved code 0xE (R77). -/
  | reservedE
  /-- The reserved code 0xF (R77). -/
  | reservedF
  deriving DecidableEq, Repr

/-- The mnemonic of the opcode table's row. -/
def Instr.mnemonic : Instr → String
  | .rxFs => "RX.FS"
  | .rxRs => "RX.RS"
  | .rxRe => "RX.RE"
  | .rxFe => "RX.FE"
  | .rxEsc => "RX.ESC"
  | .rxData _ => "RX.DATA"
  | .rxbyte _ => "RXBYTE"
  | .txready => "TXREADY"
  | .txcomplete => "TXCOMPLETE"
  | .tick => "TICK"
  | .rxpoll => "RXPOLL"
  | .rxr _ => "RXR"
  | .rxack => "RXACK"
  | .txw _ _ => "TXW"
  | .txstart _ => "TXSTART"
  | .txstat => "TXSTAT"
  | .goto _ => "GOTO"
  | .zero => "ZERO"
  | .off => "OFF"
  | .get => "GET"
  | .reservedE => "RESERVED_E"
  | .reservedF => "RESERVED_F"

end Sys2Proof
end

