-- ==== Sys2Proof/Machine/State.lean ====
section
/-! DEFINITION. The state of the block (10_state.md), its reset value (R34), the inputs the environment gives it, its outputs,
and the reasons a step can stop. -/

namespace Sys2Proof.Machine

/-- The values of `rx_state` (10_state.md R13). -/
inductive RxState where
  | idle | readingAddress | readingPayload | skippingPayload | skippingReply
  deriving DecidableEq, Repr

/-- The values of `tx_state` (10_state.md R14). -/
inductive TxState where
  | start | payload | escaped | endMark | done
  deriving DecidableEq, Repr

/-- The values of `m_state` (10_state.md R15). -/
inductive MotionState where
  | off | on | zeroing
  deriving DecidableEq, Repr

/-- A byte memory of 16 cells, as the cells written since reset: indices strictly rising and below 16 (`Memory.wf`). An index
not listed has not been written since reset (20_memory.md R40). -/
abbrev Memory := List Host.Cell

/-- The receiver group of 10_state.md R10. -/
structure Receiver where
  /-- `rx_state` (R13). -/
  state : RxState
  /-- `rx_esc` (R16). -/
  esc : Bool
  /-- `rx_len` (R11). -/
  len : BitVec 5
  /-- `rx_ready` (R17). -/
  ready : Bool
  /-- `rx_buf` (R20). -/
  buf : Memory
  deriving DecidableEq, Repr

/-- The transmitter group of 10_state.md R10. -/
structure Transmitter where
  /-- `tx_state` (R14). -/
  state : TxState
  /-- `tx_irq_en` (R18). -/
  irqEn : Bool
  /-- `tx_drv_en` (R19). -/
  drvEn : Bool
  /-- `tx_len` (R11). -/
  len : BitVec 5
  /-- `tx_cursor` (R11, R12). -/
  cursor : BitVec 5
  /-- `tx_buf` (R20). -/
  buf : Memory
  deriving DecidableEq, Repr

/-- The motion group of 10_state.md R10. -/
structure Motion where
  /-- `m_state` (R15). -/
  state : MotionState
  /-- `position` (R21). -/
  position : BitVec 16
  /-- `target` (R21). -/
  target : BitVec 16
  /-- `ramp` (R22). -/
  ramp : BitVec 8
  /-- `microstep_phase` (R23). -/
  phase : BitVec 11
  /-- `coil_out` (R26): bit 2 is coil-1, bit 1 coil-2 and coil-3, bit 0 coil-4. -/
  coil : BitVec 3
  deriving DecidableEq, Repr

/-- The drop causes of 60_exceptions.md R201: labels on transitions, stored in no register. -/
inductive DropCause where
  | restart | strayEnd | addressMismatch | busy | overflow | noFrame
  deriving DecidableEq, Repr

/-- The value a host operation hands back (30_encoding.md R75). -/
inductive HostResult where
  /-- RXPOLL: the length of the ready message, or nothing (41_link_receiver.md R112). -/
  | poll (len : Option (BitVec 5))
  /-- RXR: the byte read (R113). -/
  | byte (b : Byte)
  /-- TXSTAT (42_link_transmitter.md R142). -/
  | status (busy irq drv : Bool)
  /-- GET (43_motion.md R154). -/
  | positions (position target : BitVec 16)
  deriving DecidableEq, Repr

/-- The outputs of one step that are not registers (10_state.md R27), and the step's drop label. -/
structure Outputs where
  /-- The byte placed on the bus by `emit`. -/
  emitted : Option Byte
  /-- The value returned to the host. -/
  result : Option HostResult
  /-- The label `drop` of the step (00_scope.md section 5, R201). -/
  drop : Option DropCause
  deriving DecidableEq, Repr

/-- A step with no output. -/
def Outputs.none : Outputs := ⟨.none, .none, .none⟩

/-- What the environment gives the block between two steps (R50, R230, R247). -/
inductive Input where
  /-- A byte of the bus, or a port word with an event or a host operation (R63, R75). -/
  | word (w : RawWord)
  /-- The reset input (70_reset_and_hazards.md R230). -/
  | reset
  /-- The configuration inputs take these levels (10_state.md R30, R247). -/
  | config (n : NodeConfig)
  deriving DecidableEq, Repr

/-- The block (`rx`, `tx`, `mot`: the seventeen items of R10), what is supplied to it from outside (`params`, `node`: R5, R6,
R30), and the model's own fields (`inputs`, `out`, `resets`: log 1, 7, 8). -/
structure State where
  rx : Receiver
  tx : Transmitter
  mot : Motion
  params : Params
  node : NodeConfig
  inputs : List Input
  out : Outputs
  resets : Nat
  deriving DecidableEq, Repr

/-- The receiver after reset (R34); no cell of `rx_buf` is written. -/
def Receiver.reset : Receiver := ⟨.idle, false, 0, false, []⟩

/-- The transmitter after reset (R34); no cell of `tx_buf` is written. -/
def Transmitter.reset : Transmitter := ⟨.done, false, false, 0, 0, []⟩

/-- The motion group after reset (R34). -/
def Motion.reset : Motion := ⟨.off, 0, 0, 0, 0, coilOff⟩

/-- The machine right after reset (R34, R230): parameters and configuration inputs are free (log 3, 4), no input is pending
(log 1), no output stands (log 8), and no RESET input has been taken since (log 7). -/
def State.reset : State where
  rx := Receiver.reset
  tx := Transmitter.reset
  mot := Motion.reset
  params := Config.params
  node := Config.bootInputs
  inputs := []
  out := Outputs.none
  resets := 0

/-- Why the machine stops with a fault. -/
inductive Fault where
  /-- TXREADY reads `tx_buf` at an index of 16 or more, a cell that does not exist (20_memory.md R40). Raised by TXREADY in
  `Payload` and `Escaped`, in no state that a run reaches (invariant R25 (b)). Safe: the machine stops (log 10). -/
  | noSuchCell (space : BufferSpace) (idx : Nat)
  deriving DecidableEq, Repr

/-- Why the machine gives an operation no next state (`refuse`, 00_scope.md section 5). -/
inductive Refusal where
  /-- An instruction without a meaning: raised by exec's arm alone. Safe. -/
  | notModelled (mnemonic : String)
  /-- TXW or TXSTART while `tx_state` is not `Done` (R131, R132, U1, U2). Safe: the spec gives no next state. -/
  | txBusy
  /-- TXSTART with a length above 16 (R132, U3). Safe: the spec gives no next state. -/
  | txLength (len : BitVec 5)
  /-- The codes 0xE and 0xF of the port word (R77, U4). Safe: the spec gives no next state. -/
  | reservedOp (op : BitVec 4)
  /-- A motion operation under a configuration that is not well-formed (R7, R247 (c), U5). Safe: the spec gives no next state. -/
  | illFormedConfig
  deriving DecidableEq, Repr

end Sys2Proof.Machine
end

