-- ==== Sys2Proof/Machine/Ops.lean ====
section
/-! DEFINITION. The operations the meanings share: the byte memories, the free content of unwritten cells, the outputs of a step,
the reset input, a change of the configuration inputs, and the well-formedness of a configuration.

The block takes no exception and returns from none (60_exceptions.md R211): nothing is saved, nothing is vectored. RESET is the
one input that interrupts what the block was doing, and `takeReset` is that one operation. -/

namespace Sys2Proof.Machine

/-- The size of both byte memories (20_memory.md R40). -/
def bufferSize : Nat := 16

/-- Indices strictly rise from `lo` on and stay below 16. -/
def Memory.wfFrom (lo : Nat) : Memory → Bool
  | [] => true
  | (a, _) :: rest => decide (lo ≤ a ∧ a < bufferSize) && Memory.wfFrom (a + 1) rest

/-- The canonical form of a byte memory. No entry can equal what an unlisted index reads as, since that is no written byte. -/
def Memory.wf (m : Memory) : Bool := Memory.wfFrom 0 m

/-- The byte written at an index since reset, if any. -/
def Memory.read : Memory → Nat → Option Byte
  | [], _ => none
  | (a, b) :: rest, i => if i = a then some b else Memory.read rest i

/-- `MemWrite(space, idx, 1, v)`. -/
def Memory.write : Memory → Nat → Byte → Memory
  | [], i, v => [(i, v)]
  | (a, b) :: rest, i, v =>
    if i < a then (i, v) :: (a, b) :: rest
    else if i = a then (i, v) :: rest
    else (a, b) :: Memory.write rest i v

/-- `MemRead(space, idx, 1)`: a cell not written since reset holds a free value (U6, log 5), the same at every read (R47). -/
def cellValue (space : BufferSpace) (resets : Nat) (m : Memory) (i : Nat) : Byte :=
  (Memory.read m i).getD (Config.unwrittenCell space resets i)

/-- The content of a cell of `rx_buf`. -/
def State.rxCell (s : State) (i : Nat) : Byte := cellValue .rxBuf s.resets s.rx.buf i

/-- The content of a cell of `tx_buf`. -/
def State.txCell (s : State) (i : Nat) : Byte := cellValue .txBuf s.resets s.tx.buf i

/-- A step that changes no register and gives no output. -/
def State.quiet (s : State) : State := { s with out := Outputs.none }

/-- A step that changes no register and returns a value to the host. -/
def State.returns (s : State) (r : HostResult) : State := { s with out := ⟨none, some r, none⟩ }

/-- A step of the receiver: its new registers, and the label of a drop. -/
def State.rxDone (s : State) (r : Receiver × Option DropCause) : State :=
  { s with rx := r.1, out := ⟨none, none, r.2⟩ }

/-- A step of the transmitter: its new registers, and the byte emitted. -/
def State.txDone (s : State) (t : Transmitter) (emit : Option Byte) : State :=
  { s with tx := t, out := ⟨emit, none, none⟩ }

/-- A step of the motion controller: its new registers. -/
def State.motDone (s : State) (m : Motion) : State := { s with mot := m, out := Outputs.none }

/-- The reset input (70_reset_and_hazards.md R230, R232): every register takes the value of 10_state.md R34, the buffers become
unspecified (log 6), the configuration inputs and the inputs still to come stay, and nothing is emitted. -/
def takeReset (s : State) : State :=
  { s with
    rx := Receiver.reset
    tx := Transmitter.reset
    mot := Motion.reset
    out := Outputs.none
    resets := s.resets + 1 }

/-- The configuration inputs change (10_state.md R30, R247); no register does. -/
def takeConfig (n : NodeConfig) (s : State) : State := { s with node := n, out := Outputs.none }

/-- The next input of the environment and the state without it (20_memory.md R50: the order of the list is the order of the
steps). -/
def nextInput (s : State) : Option (Input × State) :=
  match s.inputs with
  | [] => none
  | i :: rest => some (i, { s with inputs := rest })

/-- The word is put before all pending inputs. -/
def pushWord (w : RawWord) (s : State) : State := { s with inputs := .word w :: s.inputs }

/-- A configuration is well-formed (00_scope.md R7); `0 ≤ s ≤ 8` holds by the type of `microstepShift`. -/
def configOk (p : Params) (n : NodeConfig) : Bool :=
  decide (n.minpos.toNat ≤ n.maxpos.toNat ∧ n.maxpos.toNat + p.overrunMargin ≤ positionBound)

/-- The configuration in force is well-formed. -/
def State.configOk (s : State) : Bool := Sys2Proof.Machine.configOk s.params s.node

/-- A motion operation has a meaning only under a well-formed configuration (R7, U5). -/
def ifConfigOk (s : State) (t : State) : Host.Outcome State Fault Refusal :=
  if s.configOk then .next t else .refused .illFormedConfig

/-- The value `res` of the port (30_encoding.md R75): RXPOLL `res[5]`, `res[4:0]`; RXR `res[7:0]`; TXSTAT `res[2]`, `res[1]`,
`res[0]`; GET `res[31:16]`, `res[15:0]`. The other bits are 0. -/
def HostResult.bits : HostResult → BitVec 32
  | .poll none => 0
  | .poll (some len) => (1#1 ++ len).setWidth 32
  | .byte b => b.setWidth 32
  | .status busy irq drv => (BitVec.ofBool busy ++ BitVec.ofBool irq ++ BitVec.ofBool drv).setWidth 32
  | .positions p t => p ++ t

end Sys2Proof.Machine
end

