-- ==== Sys2Proof/Machine/Operands.lean ====
section
/-! DEFINITION. How operands are formed: un-escaping a received byte (30_encoding.md R66), reading the byte at the send cursor
(20_memory.md R42), clamping a position (00_scope.md section 5). -/

namespace Sys2Proof.Machine

/-- The content byte of a received data byte (R66, R106): XOR-ed with ESC_MASK after an ESCAPE, whatever its value. -/
def contentByte (esc : Bool) (c : Byte) : Byte := if esc then c ^^^ escMask else c

/-- `MemRead(TXBUF, tx_cursor, 1)` (R42); a cursor of 16 or more names no cell (log 10). -/
def State.cursorByte (s : State) : Option Byte :=
  if s.tx.cursor.toNat < txBufSize then some (s.txCell s.tx.cursor.toNat) else none

/-- `clamp(p, minpos, maxpos) = max(minpos, min(p, maxpos))` on unsigned values (43_motion.md R151, C11). -/
def clampPosition (p lo hi : BitVec 16) : BitVec 16 :=
  BitVec.ofNat 16 (max lo.toNat (min p.toNat hi.toNat))

end Sys2Proof.Machine
end

