-- ==== Sys2Proof/Machine/Motion.lean ====
section
/-! DEFINITION. MotionController and MicrostepSequencer (43_motion.md): GOTO, ZERO, OFF, GET, TICK. Positions are exact integers
within 0..32767 under R7 and are read unsigned (log 13). -/

namespace Sys2Proof.Machine

/-- PHASE_MOD, `N = 6 × 2^s` (00_scope.md R5). -/
def phaseMod (p : Params) : Nat := stepTableSize * 2 ^ p.microstepShift.val

/-- `SEQ(ph) = STEP_TABLE[ph >> s]` (R163). The index is below 6 for every phase below `N`; the remainder is never anything
else there (log 14). -/
def stepPattern (p : Params) (ph : BitVec 11) : BitVec 3 :=
  p.stepTable.get (Fin.ofNat 6 (ph.toNat >>> p.microstepShift.val))

/-- TICK sub-step 1, the end of homing (R156). -/
def endHoming (minpos : BitVec 16) (m : Motion) : Motion :=
  if m.state = .zeroing ∧ m.position = m.target then { m with state := .on, target := minpos } else m

/-- TICK sub-step 2, `delta = |target − position|` (R157). -/
def distanceToGo (m : Motion) : Nat := ((m.target.toNat : Int) - (m.position.toNat : Int)).natAbs

/-- TICK sub-step 3, the ramp update, with a strict comparison (R158, C4). -/
def rampUpdate (ramp : BitVec 8) (delta : Nat) : BitVec 8 :=
  if delta < ramp.toNat then BitVec.ofNat 8 delta else BitVec.ofNat 8 (min (ramp.toNat + 1) rampMax)

/-- TICK sub-step 4, `step = (ramp >> (8 − s)) + 1` (R159). -/
def stepMagnitude (p : Params) (ramp : BitVec 8) : Nat :=
  (ramp.toNat >>> (rampWidth - p.microstepShift.val)) + 1

/-- TICK sub-step 5, `dir` (R160): the sign of `target − position`. -/
def moveDirection (m : Motion) : Int := ((m.target.toNat : Int) - (m.position.toNat : Int)).sign

/-- TICK sub-step 6, `(microstep_phase + dir × moved) mod N`, in `0 .. N − 1` (R161). -/
def phaseAdvance (p : Params) (ph : BitVec 11) (signedMove : Int) : BitVec 11 :=
  BitVec.ofNat 11 (((ph.toNat : Int) + signedMove) % (phaseMod p : Int)).toNat

/-- TICK sub-steps 2 to 6 (R157 to R161), on the registers that sub-step 1 leaves. -/
def tickMove (p : Params) (m : Motion) : Motion :=
  let delta := distanceToGo m
  let ramp := rampUpdate m.ramp delta
  let moved := min (stepMagnitude p ramp) delta
  let signedMove := moveDirection m * (moved : Int)
  { m with
    ramp := ramp
    position := BitVec.ofInt 16 ((m.position.toNat : Int) + signedMove)
    phase := phaseAdvance p m.phase signedMove }

/-- TICK sub-step 7, the coil output (R162), from `m_state` after sub-step 1 and the phase just written. -/
def driveCoils (p : Params) (m : Motion) : Motion :=
  { m with coil := if m.state = .off then coilOff else stepPattern p m.phase }

/-- The seven sub-steps of TICK in order (R155). -/
def tickMotion (p : Params) (minpos : BitVec 16) (m : Motion) : Motion :=
  driveCoils p (tickMove p (endHoming minpos m))

/-- TICK (R155). An ill-formed configuration is refused (R7, U5, R247 (c)) in every state, before the first motion command too
(log 11). -/
def execTick (s : State) : Host.Outcome State Fault Refusal :=
  ifConfigOk s (s.motDone (tickMotion s.params s.node.minpos s.mot))

/-- GOTO (R151): a no-op while `Zeroing`. -/
def execGoto (p : BitVec 16) (s : State) : Host.Outcome State Fault Refusal :=
  ifConfigOk s (s.motDone
    (if s.mot.state = .zeroing then s.mot
     else { s.mot with target := clampPosition p s.node.minpos s.node.maxpos, state := .on }))

/-- ZERO (R152): unconditional. -/
def execZero (s : State) : Host.Outcome State Fault Refusal :=
  ifConfigOk s (s.motDone
    { s.mot with
      state := .zeroing
      target := 0
      position := BitVec.ofNat 16 (s.node.maxpos.toNat + s.params.overrunMargin) })

/-- OFF (R153): the coils are de-energized in this step. -/
def execOff (s : State) : Host.Outcome State Fault Refusal :=
  ifConfigOk s (s.motDone { s.mot with target := s.mot.position, state := .off, coil := coilOff })

/-- GET (R154): both values of one instant. -/
def execGet (s : State) : Host.Outcome State Fault Refusal :=
  ifConfigOk s (s.returns (.positions s.mot.position s.mot.target))

end Sys2Proof.Machine
end

