-- ==== Sys2Proof/WellFormed.lean ====
section
/-! DEFINITION. Which instructions have an encoding. The only check: the operand of RX.DATA is a byte of that class. -/

namespace Sys2Proof

/-- The 251 values of class RX.DATA (30_encoding.md R63): neither a control symbol nor ESCAPE. -/
def isDataByte (c : Byte) : Bool :=
  decide (c ≠ frameStart ∧ c ≠ replyStart ∧ c ≠ replyEnd ∧ c ≠ frameEnd ∧ c ≠ escape)

/-- Every operand value of the port word is encodable (R76), the lengths 17 to 31 of TXSTART and the reserved codes too:
those are refused when they are carried out, not when they are decoded. -/
def Instr.wellFormed : Instr → Bool
  | .rxData c => isDataByte c
  | .rxFs | .rxRs | .rxRe | .rxFe | .rxEsc => true
  | .rxbyte _ | .txready | .txcomplete | .tick => true
  | .rxpoll | .rxr _ | .rxack => true
  | .txw _ _ | .txstart _ | .txstat => true
  | .goto _ | .zero | .off | .get => true
  | .reservedE | .reservedF => true

end Sys2Proof
end

