-- ==== Sys2Proof/Decode.lean ====
section
/-! DEFINITION. The decoder of both formats, the encoder, and the opcode table as data (30_encoding.md R63, R64, R75 to R77). -/

namespace Sys2Proof

/-- The six symbol classes of 30_encoding.md R63. -/
inductive SymbolClass where
  | frameStart | replyStart | replyEnd | frameEnd | escape | data
  deriving DecidableEq, Repr

/-- The class of a byte by its raw value alone, in the order of tests of 41_link_receiver.md R100. -/
def classify (c : Byte) : SymbolClass :=
  if c = frameStart then .frameStart
  else if c = replyStart then .replyStart
  else if c = frameEnd then .frameEnd
  else if c = replyEnd then .replyEnd
  else if c = escape then .escape
  else .data

/-- Format W: every byte is one symbol. -/
def decodeWire (c : Byte) : Instr :=
  match classify c with
  | .frameStart => .rxFs
  | .replyStart => .rxRs
  | .replyEnd => .rxRe
  | .frameEnd => .rxFe
  | .escape => .rxEsc
  | .data => .rxData c

/-- `op = PW[19:16]` (R75). -/
def PortWord.op (pw : PortWord) : BitVec 4 := pw.extractLsb' 16 4

/-- Format P (R75, R76): bits of `arg` that an operation does not use are ignored. -/
def decodePort (pw : PortWord) : Instr :=
  match (PortWord.op pw).toNat with
  | 0x0 => .rxbyte (pw.extractLsb' 0 8)
  | 0x1 => .txready
  | 0x2 => .txcomplete
  | 0x3 => .tick
  | 0x4 => .rxpoll
  | 0x5 => .rxr (pw.extractLsb' 0 4)
  | 0x6 => .rxack
  | 0x7 => .txw (pw.extractLsb' 8 4) (pw.extractLsb' 0 8)
  | 0x8 => .txstart (pw.extractLsb' 0 5)
  | 0x9 => .txstat
  | 0xA => .goto (pw.extractLsb' 0 16)
  | 0xB => .zero
  | 0xC => .off
  | 0xD => .get
  | 0xE => .reservedE
  | _ => .reservedF

/-- The decoder. Every byte of the wire and every port word is an instruction. -/
def decode : RawWord → Instr
  | .wire b => decodeWire b
  | .port pw => decodePort pw

/-- Why a table word is no encoded instruction. -/
inductive DecodeReject where
  /-- Neither the 8 bits of format W nor the 20 bits of format P (24 in whole bytes). -/
  | noSuchFormat (nbits : Nat)
  /-- A bit is set above the word's width. -/
  | bitsBeyondWord (nbits w : Nat)
  deriving DecidableEq, Repr

/-- The encoded instruction that `nbits` bits of value `w` are: 8 bits are a wire byte, 20 bits a port word, which in whole
bytes is 24 bits with the upper four 0 (log 15). -/
def rawOfBits (nbits w : Nat) : Except DecodeReject RawWord :=
  match nbits with
  | 8 => if w < 2 ^ 8 then .ok (.wire (BitVec.ofNat 8 w)) else .error (.bitsBeyondWord 8 w)
  | 20 => if w < 2 ^ 20 then .ok (.port (BitVec.ofNat 20 w)) else .error (.bitsBeyondWord 20 w)
  | 24 => if w < 2 ^ 20 then .ok (.port (BitVec.ofNat 20 w)) else .error (.bitsBeyondWord 24 w)
  | n => .error (.noSuchFormat n)

/-- The decoder on bits, total, rejecting by name. -/
def decodeBits (nbits w : Nat) : Except DecodeReject Instr :=
  match rawOfBits nbits w with
  | .ok r => .ok (decode r)
  | .error e => .error e

/-- The instruction the decoder reads from a word numbered as spec/opcode_table.json numbers it. -/
def decodeTableWord (nbits w : Nat) : Option Instr :=
  match decodeBits nbits w with
  | .ok i => some i
  | .error _ => none

/-- The port word with the given `op` and `arg` (R75). -/
def portWord (op : BitVec 4) (arg : BitVec 16) : RawWord := .port (op ++ arg)

/-- The encoding of an instruction (R63, R75); unused bits of `arg` are written 0 (log 16). -/
def encode : Instr → RawWord
  | .rxFs => .wire frameStart
  | .rxRs => .wire replyStart
  | .rxRe => .wire replyEnd
  | .rxFe => .wire frameEnd
  | .rxEsc => .wire escape
  | .rxData c => .wire c
  | .rxbyte c => portWord 0x0 (c.setWidth 16)
  | .txready => portWord 0x1 0
  | .txcomplete => portWord 0x2 0
  | .tick => portWord 0x3 0
  | .rxpoll => portWord 0x4 0
  | .rxr idx => portWord 0x5 (idx.setWidth 16)
  | .rxack => portWord 0x6 0
  | .txw idx b => portWord 0x7 ((idx ++ b).setWidth 16)
  | .txstart len => portWord 0x8 (len.setWidth 16)
  | .txstat => portWord 0x9 0
  | .goto p => portWord 0xA p
  | .zero => portWord 0xB 0
  | .off => portWord 0xC 0
  | .get => portWord 0xD 0
  | .reservedE => portWord 0xE 0
  | .reservedF => portWord 0xF 0

/-- One row of spec/opcode_table.json: an instruction's word `w` of the row's format matches when `w AND mask = match`. -/
structure OpcodeRow where
  mnemonic : String
  width : Nat
  value : Nat
  mask : Nat
  deriving DecidableEq, Repr

/-- The width of an encoded instruction and its bits as a number. -/
def RawWord.widthBits : RawWord → Nat × Nat
  | .wire b => (8, b.toNat)
  | .port pw => (20, pw.toNat)

/-- The row matches the encoded instruction. -/
def OpcodeRow.matchesWord (r : OpcodeRow) (w : RawWord) : Bool :=
  decide (w.widthBits.1 = r.width ∧ w.widthBits.2 &&& r.mask = r.value)

/-- The sixteen rows of format W (30_encoding.md R63). -/
def wireRows : List OpcodeRow :=
  [⟨"RX.FS", 8, 0x01, 0xFF⟩, ⟨"RX.RS", 8, 0x02, 0xFF⟩, ⟨"RX.RE", 8, 0x03, 0xFF⟩, ⟨"RX.FE", 8, 0x04, 0xFF⟩,
   ⟨"RX.ESC", 8, 0x1B, 0xFF⟩, ⟨"RX.DATA", 8, 0x00, 0xFF⟩, ⟨"RX.DATA", 8, 0x05, 0xFF⟩, ⟨"RX.DATA", 8, 0x06, 0xFE⟩,
   ⟨"RX.DATA", 8, 0x08, 0xF8⟩, ⟨"RX.DATA", 8, 0x10, 0xF8⟩, ⟨"RX.DATA", 8, 0x18, 0xFE⟩, ⟨"RX.DATA", 8, 0x1A, 0xFF⟩,
   ⟨"RX.DATA", 8, 0x1C, 0xFC⟩, ⟨"RX.DATA", 8, 0x20, 0xE0⟩, ⟨"RX.DATA", 8, 0x40, 0xC0⟩, ⟨"RX.DATA", 8, 0x80, 0x80⟩]

/-- The sixteen rows of format P (30_encoding.md R75, R77): `match = k * 0x10000`, `mask = 0xF0000`. -/
def portRows : List OpcodeRow :=
  [⟨"RXBYTE", 20, 0x00000, 0xF0000⟩, ⟨"TXREADY", 20, 0x10000, 0xF0000⟩, ⟨"TXCOMPLETE", 20, 0x20000, 0xF0000⟩,
   ⟨"TICK", 20, 0x30000, 0xF0000⟩, ⟨"RXPOLL", 20, 0x40000, 0xF0000⟩, ⟨"RXR", 20, 0x50000, 0xF0000⟩,
   ⟨"RXACK", 20, 0x60000, 0xF0000⟩, ⟨"TXW", 20, 0x70000, 0xF0000⟩, ⟨"TXSTART", 20, 0x80000, 0xF0000⟩,
   ⟨"TXSTAT", 20, 0x90000, 0xF0000⟩, ⟨"GOTO", 20, 0xA0000, 0xF0000⟩, ⟨"ZERO", 20, 0xB0000, 0xF0000⟩,
   ⟨"OFF", 20, 0xC0000, 0xF0000⟩, ⟨"GET", 20, 0xD0000, 0xF0000⟩, ⟨"RESERVED_E", 20, 0xE0000, 0xF0000⟩,
   ⟨"RESERVED_F", 20, 0xF0000, 0xF0000⟩]

/-- spec/opcode_table.json, row by row. -/
def opcodeTable : List OpcodeRow := wireRows ++ portRows

end Sys2Proof
end

