-- ==== Sys2Proof/Machine/Flags.lean ====
section
/-! DEFINITION. The writes of the four flags (10_state.md R16 to R19). The block has no arithmetic flags. -/

namespace Sys2Proof.Machine

/-- `rx_esc <- 1` (R16). -/
def Receiver.setEsc (r : Receiver) : Receiver := { r with esc := true }
/-- `rx_esc <- 0` (R16). -/
def Receiver.clearEsc (r : Receiver) : Receiver := { r with esc := false }
/-- `rx_ready <- 1` (R17). -/
def Receiver.setReady (r : Receiver) : Receiver := { r with ready := true }
/-- `rx_ready <- 0` (R17). -/
def Receiver.clearReady (r : Receiver) : Receiver := { r with ready := false }
/-- `tx_irq_en <- 1` (R18). -/
def Transmitter.setIrq (t : Transmitter) : Transmitter := { t with irqEn := true }
/-- `tx_irq_en <- 0` (R18). -/
def Transmitter.clearIrq (t : Transmitter) : Transmitter := { t with irqEn := false }
/-- `tx_drv_en <- 1` (R19). -/
def Transmitter.setDrv (t : Transmitter) : Transmitter := { t with drvEn := true }
/-- `tx_drv_en <- 0` (R19). -/
def Transmitter.clearDrv (t : Transmitter) : Transmitter := { t with drvEn := false }

end Sys2Proof.Machine
end

