-- ==== Sys2Proof/Machine/Receiver.lean ====
section
/-! DEFINITION. LinkReceiver (41_link_receiver.md): the symbol classes, RXBYTE, RXPOLL, RXR, RXACK. Each receiver operation gives
the group's new registers and the label of a drop (60_exceptions.md R201). -/

namespace Sys2Proof.Machine

/-- The label of a start marker: a request that was being stored is abandoned (R101, R102, R201). -/
def restartDrop (r : Receiver) : Option DropCause :=
  if r.state = .readingPayload then some .restart else none

/-- R101, FRAME_START. -/
def rxFrameStart (r : Receiver) : Receiver × Option DropCause :=
  ({ r.clearEsc with state := .readingAddress }, restartDrop r)

/-- R102, REPLY_START. -/
def rxReplyStart (r : Receiver) : Receiver × Option DropCause :=
  ({ r.clearEsc with state := .skippingReply }, restartDrop r)

/-- R107, a content byte in `ReadingAddress`: the address filter. -/
def rxAddress (nodeAddr d : Byte) (r : Receiver) : Receiver × Option DropCause :=
  if d = nodeAddr ∧ r.ready = false then ({ r with state := .readingPayload, len := 0 }, none)
  else ({ r with state := .skippingPayload }, some (if d = nodeAddr then .busy else .addressMismatch))

/-- R108, a content byte in `ReadingPayload`: append, or overflow. -/
def rxAppend (d : Byte) (r : Receiver) : Receiver × Option DropCause :=
  if r.len.toNat < maxPayload then
    ({ r with buf := Memory.write r.buf r.len.toNat d, len := r.len + 1 }, none)
  else ({ r with state := .idle }, some .overflow)

/-- R106, a data byte: un-escape, clear the flag, dispatch by state (R107 to R110). -/
def rxDataByte (nodeAddr c : Byte) (r : Receiver) : Receiver × Option DropCause :=
  let d := contentByte r.esc c
  match r.state with
  | .readingAddress => rxAddress nodeAddr d r.clearEsc
  | .readingPayload => rxAppend d r.clearEsc
  | .skippingPayload => (r.clearEsc, none)
  | .skippingReply => (r.clearEsc, none)
  | .idle => (r.clearEsc, some .noFrame)

/-- The third arm of R103 and the second of R104: an end marker that closes no frame. -/
def rxStrayEnd (stray : StrayEnd) (nodeAddr c : Byte) (r : Receiver) : Receiver × Option DropCause :=
  match stray with
  | .toIdle => ({ r.clearEsc with state := .idle }, some .strayEnd)
  | .asData => rxDataByte nodeAddr c r

/-- R103, FRAME_END. -/
def rxFrameEnd (stray : StrayEnd) (nodeAddr : Byte) (r : Receiver) : Receiver × Option DropCause :=
  match r.state with
  | .readingPayload =>
    ({ (if r.ready = false then r.setReady else r).clearEsc with state := .idle }, none)
  | .skippingPayload => ({ r.clearEsc with state := .idle }, none)
  | .idle => rxStrayEnd stray nodeAddr frameEnd r
  | .readingAddress => rxStrayEnd stray nodeAddr frameEnd r
  | .skippingReply => rxStrayEnd stray nodeAddr frameEnd r

/-- R104, REPLY_END. -/
def rxReplyEnd (stray : StrayEnd) (nodeAddr : Byte) (r : Receiver) : Receiver × Option DropCause :=
  match r.state with
  | .skippingReply => ({ r.clearEsc with state := .idle }, none)
  | .idle => rxStrayEnd stray nodeAddr replyEnd r
  | .readingAddress => rxStrayEnd stray nodeAddr replyEnd r
  | .readingPayload => rxStrayEnd stray nodeAddr replyEnd r
  | .skippingPayload => rxStrayEnd stray nodeAddr replyEnd r

/-- R105, ESCAPE. -/
def rxEscape (r : Receiver) : Receiver × Option DropCause := (r.setEsc, none)

/-- R100: exactly one of the rules R101 to R106 applies, by the class of the raw byte. -/
def rxSymbol (stray : StrayEnd) (nodeAddr c : Byte) (r : Receiver) : Receiver × Option DropCause :=
  match classify c with
  | .frameStart => rxFrameStart r
  | .replyStart => rxReplyStart r
  | .frameEnd => rxFrameEnd stray nodeAddr r
  | .replyEnd => rxReplyEnd stray nodeAddr r
  | .escape => rxEscape r
  | .data => rxDataByte nodeAddr c r

/-- RX.FS (R101). -/
def execRxFs (s : State) : Host.Outcome State Fault Refusal := .next (s.rxDone (rxFrameStart s.rx))

/-- RX.RS (R102). -/
def execRxRs (s : State) : Host.Outcome State Fault Refusal := .next (s.rxDone (rxReplyStart s.rx))

/-- RX.RE (R104). -/
def execRxRe (s : State) : Host.Outcome State Fault Refusal :=
  .next (s.rxDone (rxReplyEnd s.params.strayEnd s.node.nodeAddr s.rx))

/-- RX.FE (R103). -/
def execRxFe (s : State) : Host.Outcome State Fault Refusal :=
  .next (s.rxDone (rxFrameEnd s.params.strayEnd s.node.nodeAddr s.rx))

/-- RX.ESC (R105). -/
def execRxEsc (s : State) : Host.Outcome State Fault Refusal := .next (s.rxDone (rxEscape s.rx))

/-- RX.DATA (R106). A byte of another class is no operand of this instruction (`Instr.wellFormed`); given one, R106 is applied
to it as R103 and R104 do (log 19). -/
def execRxData (c : Byte) (s : State) : Host.Outcome State Fault Refusal :=
  .next (s.rxDone (rxDataByte s.node.nodeAddr c s.rx))

/-- RXBYTE (R100). -/
def execRxbyte (c : Byte) (s : State) : Host.Outcome State Fault Refusal :=
  .next (s.rxDone (rxSymbol s.params.strayEnd s.node.nodeAddr c s.rx))

/-- RXPOLL (R112): a test that changes nothing; a length is reported only while a message is ready. -/
def execRxpoll (s : State) : Host.Outcome State Fault Refusal :=
  .next (s.returns (.poll (if s.rx.ready then some s.rx.len else none)))

/-- RXR (R113). -/
def execRxr (idx : BitVec 4) (s : State) : Host.Outcome State Fault Refusal :=
  .next (s.returns (.byte (s.rxCell idx.toNat)))

/-- RXACK (R114). -/
def execRxack (s : State) : Host.Outcome State Fault Refusal := .next (s.rxDone (s.rx.clearReady, none))

end Sys2Proof.Machine
end

