-- ==== Sys2Proof/Machine/Reserved.lean ====
section
/-! DEFINITION. The reserved codes of the port word (30_encoding.md R77, U4): refused, the spec gives them no next state. -/

namespace Sys2Proof.Machine

/-- RESERVED_E (R77). -/
def execReservedE (_s : State) : Host.Outcome State Fault Refusal := .refused (.reservedOp 0xE)

/-- RESERVED_F (R77). -/
def execReservedF (_s : State) : Host.Outcome State Fault Refusal := .refused (.reservedOp 0xF)

end Sys2Proof.Machine
end

