-- ==== Sys2Proof/Machine/Transmitter.lean ====
section
/-! DEFINITION. LinkTransmitter (42_link_transmitter.md): TXW, TXSTART, TXSTAT, TXREADY, TXCOMPLETE. -/

namespace Sys2Proof.Machine

/-- The transmitter is busy: `tx_state ≠ Done` (42_link_transmitter.md, introduction). -/
def Transmitter.busy (t : Transmitter) : Bool := decide (t.state ≠ .done)

/-- The cursor moves past a byte sent completely, and the end of the payload is tested (R135, R136). -/
def Transmitter.advance (t : Transmitter) : Transmitter :=
  let n := t.cursor + 1
  { t with cursor := n, state := if n = t.len then .endMark else .payload }

/-- R134, TXREADY in `Start`. -/
def txStartStep (t : Transmitter) : Transmitter :=
  { t.setDrv with cursor := 0, state := if t.len = 0 then .endMark else .payload }

/-- R135, TXREADY in `Payload`, with the byte `b` at the cursor: the registers after and the byte emitted. -/
def txPayloadStep (b : Byte) (t : Transmitter) : Transmitter × Byte :=
  if b.toNat < escThreshold then ({ t with state := .escaped }, escape) else (t.advance, b)

/-- R136, TXREADY in `Escaped`, with the byte `b` at the cursor. -/
def txEscapedStep (b : Byte) (t : Transmitter) : Transmitter × Byte := (t.advance, b ^^^ escMask)

/-- A step that reads the byte at the cursor. -/
def withCursorByte (s : State) (f : Byte → Transmitter × Byte) : Host.Outcome State Fault Refusal :=
  match s.cursorByte with
  | some b => .next (s.txDone (f b).1 (some (f b).2))
  | none => .fault (.noSuchCell .txBuf s.tx.cursor.toNat)

/-- TXREADY (R133): masked while `tx_irq_en = 0`; else by `tx_state` (R134 to R138). -/
def execTxready (s : State) : Host.Outcome State Fault Refusal :=
  if s.tx.irqEn = false then .next s.quiet
  else match s.tx.state with
    | .start => .next (s.txDone (txStartStep s.tx) (some replyStart))
    | .payload => withCursorByte s (fun b => txPayloadStep b s.tx)
    | .escaped => withCursorByte s (fun b => txEscapedStep b s.tx)
    | .endMark => .next (s.txDone { s.tx with state := .done } (some replyEnd))
    | .done => .next (s.txDone s.tx.clearIrq none)

/-- TXCOMPLETE (R139): releases the bus driver in `Done` only. -/
def execTxcomplete (s : State) : Host.Outcome State Fault Refusal :=
  .next (s.txDone (if s.tx.state = .done then s.tx.clearDrv else s.tx) none)

/-- TXW (R131). -/
def execTxw (idx : BitVec 4) (b : Byte) (s : State) : Host.Outcome State Fault Refusal :=
  if s.tx.busy then .refused .txBusy
  else .next (s.txDone { s.tx with buf := Memory.write s.tx.buf idx.toNat b } none)

/-- TXSTART (R132). -/
def execTxstart (len : BitVec 5) (s : State) : Host.Outcome State Fault Refusal :=
  if s.tx.busy then .refused .txBusy
  else if len.toNat > maxPayload then .refused (.txLength len)
  else .next (s.txDone { s.tx.setIrq with len := len, cursor := 0, state := .start } none)

/-- TXSTAT (R142). -/
def execTxstat (s : State) : Host.Outcome State Fault Refusal :=
  .next (s.returns (.status s.tx.busy s.tx.irqEn s.tx.drvEn))

end Sys2Proof.Machine
end

