-- ==== Sys2Proof/Machine/Dispatch.lean ====
section
/-! DEFINITION. One arm per instruction. -/

namespace Sys2Proof.Machine

def exec (i : Instr) (s : State) : Host.Outcome State Fault Refusal :=
  match i with
  | .rxFs => Sys2Proof.Machine.execRxFs s
  | .rxRs => Sys2Proof.Machine.execRxRs s
  | .rxRe => Sys2Proof.Machine.execRxRe s
  | .rxFe => Sys2Proof.Machine.execRxFe s
  | .rxEsc => Sys2Proof.Machine.execRxEsc s
  | .rxData c => Sys2Proof.Machine.execRxData c s
  | .rxbyte c => Sys2Proof.Machine.execRxbyte c s
  | .txready => Sys2Proof.Machine.execTxready s
  | .txcomplete => Sys2Proof.Machine.execTxcomplete s
  | .tick => Sys2Proof.Machine.execTick s
  | .rxpoll => Sys2Proof.Machine.execRxpoll s
  | .rxr idx => Sys2Proof.Machine.execRxr idx s
  | .rxack => Sys2Proof.Machine.execRxack s
  | .txw idx b => Sys2Proof.Machine.execTxw idx b s
  | .txstart len => Sys2Proof.Machine.execTxstart len s
  | .txstat => Sys2Proof.Machine.execTxstat s
  | .goto p => Sys2Proof.Machine.execGoto p s
  | .zero => Sys2Proof.Machine.execZero s
  | .off => Sys2Proof.Machine.execOff s
  | .get => Sys2Proof.Machine.execGet s
  | .reservedE => Sys2Proof.Machine.execReservedE s
  | .reservedF => Sys2Proof.Machine.execReservedF s

end Sys2Proof.Machine
end

