-- ==== Sys2Proof/Machine/Step.lean ====
section
/-! DEFINITION. One step: the next input of the environment is taken and carried out (20_memory.md R50). -/

namespace Sys2Proof.Machine

/-- What one input does: a word is decoded and executed, the reset input resets (R230), a configuration change changes the
inputs only (R247). -/
def deliver (i : Input) (s : State) : Host.Outcome State Fault Refusal :=
  match i with
  | .word w => exec (decode w) s
  | .reset => .next (takeReset s)
  | .config n => .next (takeConfig n s)

/-- One step. With no input pending nothing happens, and no output stands (log 1). -/
def step (s : State) : Host.Outcome State Fault Refusal :=
  match nextInput s with
  | some (i, t) => deliver i t
  | none => .next s.quiet

/-- The word of `nbits` bits `w`, given to the block as its very next input; bits that form no word of either format leave the
state as it is (log 2). -/
def State.withFetchWord (s : State) (nbits w : Nat) : State :=
  match rawOfBits nbits w with
  | .ok r => pushWord r s
  | .error _ => s

end Sys2Proof.Machine
end

