-- ==== Sys2Proof/Machine/FrameCodec.lean ====
section
/-! DEFINITION. FrameCodec, the pure encode and decode functions (40_frame_codec.md R90 to R94). -/

namespace Sys2Proof.Machine

/-- `ESC_ENC(b)` (R90). -/
def escEnc (b : Byte) : List Byte := if b.toNat < escThreshold then [escape, b ^^^ escMask] else [b]

/-- The data encoding of a list of content bytes, in order. -/
def escEncAll (p : List Byte) : List Byte := p.flatMap escEnc

/-- `ENC_REQUEST(a, p)` (R91). The rule defines it for payloads of at most 16 bytes; for longer ones the same list is the model's
choice (DESIGN CHOICE, log 23). -/
def encRequest (a : Byte) (p : List Byte) : List Byte := [frameStart] ++ escEnc a ++ escEncAll p ++ [frameEnd]

/-- `ENC_REPLY(p)` (R92). The rule defines it for payloads of at most 16 bytes; for longer ones the same list is the model's
choice (DESIGN CHOICE, log 23). -/
def encReply (p : List Byte) : List Byte := [replyStart] ++ escEncAll p ++ [replyEnd]

/-- `DEC_BODY(w)` (R94) with the flag `e`. -/
def decBodyFrom (e : Bool) : List Byte → List Byte
  | [] => []
  | c :: rest =>
    if c = escape then decBodyFrom true rest
    else (if e then c ^^^ escMask else c) :: decBodyFrom false rest

/-- `DEC_BODY(w)` (R94), the reference decoder of the bytes between two markers. The rule defines it for bytes of class RX.DATA and
RX.ESC; a control symbol in `w` is taken as a data byte (DESIGN CHOICE, log 23). -/
def decBody (w : List Byte) : List Byte := decBodyFrom false w

end Sys2Proof.Machine
end

