-- ==== Sys2Proof/Machine/Trace.lean ====
section
/-! DEFINITION. The pseudo-operations of 30_encoding.md R79, as lists of inputs. -/

namespace Sys2Proof.Machine

/-- An operation of the port word, as an input. -/
def opInput (i : Instr) : Input := .word (encode i)

/-- `WIRE [b0, b1, …]`. -/
def wireIn (bs : List Byte) : List Input := bs.map (fun b => opInput (.rxbyte b))

/-- `FRAME a, [p0, …]`; for more than 16 bytes see `encRequest` (log 23). -/
def frameIn (a : Byte) (p : List Byte) : List Input := wireIn (encRequest a p)

/-- `REPLYIN [p0, …]`; for more than 16 bytes see `encReply` (log 23). -/
def replyIn (p : List Byte) : List Input := wireIn (encReply p)

/-- The TXW operations of `SEND`, from index `i` on. DESIGN CHOICE (log 23): from index 16 on, which TXW cannot encode and for which
R79 gives no expansion, the index wraps modulo 16. -/
def txwFrom (i : Nat) : List Byte → List Instr
  | [] => []
  | b :: rest => .txw (BitVec.ofNat 4 i) b :: txwFrom (i + 1) rest

/-- The operations of `SEND [p0, …]` (R79). DESIGN CHOICE (log 23): for more than 16 bytes R79 gives no expansion that TXW can encode;
the indices then wrap modulo 16, and from 32 bytes on, which TXSTART cannot encode, the length wraps modulo 32. -/
def sendOps (p : List Byte) : List Instr := txwFrom 0 p ++ [.txstart (BitVec.ofNat 5 p.length)]

/-- `SEND [p0, …]`, as inputs; for more than 16 bytes see `sendOps` (log 23). -/
def sendIn (p : List Byte) : List Input := (sendOps p).map opInput

/-- `TICKS k`. -/
def ticksIn (k : Nat) : List Input := List.replicate k (opInput .tick)

/-- `READMSG`, as the inputs the host gives a block in state `s`. DESIGN CHOICE (log 23): for a length above 16, which no run
reaches, the index of RXR wraps modulo 16. -/
def readMsgIn (s : State) : List Input :=
  opInput .rxpoll ::
    (if s.rx.ready then (List.range s.rx.len.toNat).map (fun i => opInput (.rxr (BitVec.ofNat 4 i))) else [])

/-- `DRAIN`, as the inputs the environment gives a block in state `s`: TXREADY until `tx_irq_en = 0`, then TXCOMPLETE. At most
35 TXREADY are needed (R140: 34 bytes, and the step in `Done`), which is what `fuel` is for.
DESIGN CHOICE (log 23): with too little fuel the list ends in TXCOMPLETE early, and where TXREADY stops, in no state a run reaches,
the list ends there. -/
def drainIn (fuel : Nat) (s : State) : List Input :=
  match fuel with
  | 0 => [opInput .txcomplete]
  | fuel + 1 =>
    if s.tx.irqEn then
      match execTxready s with
      | .next t => opInput .txready :: drainIn fuel t
      | .fault _ => []
      | .refused _ => []
    else [opInput .txcomplete]

end Sys2Proof.Machine
end

