-- ==== Sys2Proof/Safety.lean ====
section
/-! DEFINITION. What claims are stated with: the invariant of the machine, the quiescence conditions, runs of a list of
operations with the bytes they emit, and which group an instruction belongs to. -/

namespace Sys2Proof.Machine

/-- The receiver's invariants (10_state.md R25 (a), (e)) and the canonical form of `rx_buf`. -/
abbrev Receiver.inv (r : Receiver) : Prop :=
  r.len.toNat ≤ 16 ∧ (r.state = .readingPayload → r.ready = false) ∧ Memory.wf r.buf = true

/-- The transmitter's invariants (10_state.md R25 (b)) and the canonical form of `tx_buf`. -/
abbrev Transmitter.inv (t : Transmitter) : Prop :=
  t.len.toNat ≤ 16 ∧
  (t.state = .payload → t.cursor.toNat < t.len.toNat) ∧
  (t.state = .escaped → t.cursor.toNat < t.len.toNat) ∧
  (t.state = .endMark → t.cursor = t.len) ∧
  (t.state = .done → t.cursor = t.len) ∧
  Memory.wf t.buf = true

/-- The motion group's invariants: positions within 0..32767 (R11, C11), the phase below `N` (R25 (d)), `Off` at rest with the
coils off (R160, R162), and the homing target 0 (R156). -/
abbrev Motion.inv (p : Params) (m : Motion) : Prop :=
  m.position.toNat ≤ 32767 ∧
  m.target.toNat ≤ 32767 ∧
  m.phase.toNat < phaseMod p ∧
  (m.state = .off → m.target = m.position ∧ m.coil = coilOff) ∧
  (m.state = .zeroing → m.target = 0)

/-- The invariant of the machine. It does not speak of the configuration inputs: the environment may change them at any time. -/
abbrev State.inv (s : State) : Prop := s.rx.inv ∧ s.tx.inv ∧ s.mot.inv s.params

/-- The weaker bounds of 10_state.md R24 under limits that stay constant. R24 writes `target ≤ maxpos`, which its own case (c)
contradicts in `Off` (log 20). -/
abbrev State.withinLimits (s : State) : Prop :=
  s.configOk = true ∧
  s.mot.position.toNat ≤ s.node.maxpos.toNat + s.params.overrunMargin ∧
  s.mot.target.toNat ≤ s.node.maxpos.toNat + s.params.overrunMargin ∧
  (s.mot.state ≠ .off → s.mot.target.toNat ≤ s.node.maxpos.toNat) ∧
  (s.mot.state = .off → s.mot.target = s.mot.position)

/-- Receiver quiet (70_reset_and_hazards.md R253 (a)). -/
abbrev State.receiverQuiet (s : State) : Prop := s.rx.state = .idle ∧ s.rx.ready = false

/-- Transmitter quiet (R253 (b)). -/
abbrev State.transmitterQuiet (s : State) : Prop :=
  s.tx.state = .done ∧ s.tx.irqEn = false ∧ s.tx.drvEn = false

/-- Motion at rest (R253 (c)). -/
abbrev State.motionAtRest (s : State) : Prop := s.mot.position = s.mot.target ∧ s.mot.state ≠ .zeroing

/-- The block is quiescent (R253). -/
abbrev State.quiescent (s : State) : Prop := s.receiverQuiet ∧ s.transmitterQuiet ∧ s.motionAtRest

/-- The three groups of 10_state.md R10, and the reserved codes. -/
inductive Group where
  | receiver | transmitter | motion | reserved
  deriving DecidableEq, Repr

/-- The group whose state an instruction may touch (10_state.md R31). -/
def group : Instr → Group
  | .rxFs | .rxRs | .rxRe | .rxFe | .rxEsc | .rxData _ | .rxbyte _ | .rxpoll | .rxr _ | .rxack => .receiver
  | .txready | .txcomplete | .txw _ _ | .txstart _ | .txstat => .transmitter
  | .tick | .goto _ | .zero | .off | .get => .motion
  | .reservedE | .reservedF => .reserved

/-- The operations are carried out in order: the bytes emitted and the state after, if each has a next state. -/
def runOps : List Instr → State → Option (List Byte × State)
  | [], s => some ([], s)
  | i :: rest, s =>
    match exec i s with
    | .next t => (runOps rest t).map (fun r => (t.out.emitted.toList ++ r.1, r.2))
    | .fault _ => none
    | .refused _ => none

/-- The same registers of the block, parameters, configuration inputs, pending inputs and reset count; the outputs may differ. -/
abbrev State.sameBut (s t : State) : Prop := { s with out := Outputs.none } = { t with out := Outputs.none }

end Sys2Proof.Machine
end

