-- ==== Sys2Proof/Certificates/Slice0/Obligations.lean ====
section
/-! DEFINITION. The statements for the provers. Each says which rule of spec/ it formalises; where a clause rests on a choice of
the model, it names the log entry. Numbers of the spec are written out, so that a statement does not lean on the constants it
checks. -/

open Sys2Proof Sys2Proof.Machine

/-! ## Encoding -/

/-- Decoding an encoded well-formed instruction gives it back, for every instruction and every operand (R63, R75, R76). -/
def Obligations.DecodeEncodeRoundTrip : Prop :=
  ∀ i : Instr, i.wellFormed = true → decode (encode i) = i

/-- R63: every byte value matches exactly one of the sixteen rows of format W, and the decoder gives that row's instruction, with
the byte as the operand of RX.DATA. -/
def Obligations.EveryByteHasOneSymbolClass : Prop :=
  ∀ c : Byte,
    (wireRows.filter (fun r => r.matchesWord (.wire c))).map OpcodeRow.mnemonic = [(decode (.wire c)).mnemonic] ∧
    encode (decode (.wire c)) = .wire c ∧ (decode (.wire c)).wellFormed = true

/-- R75 and R76: for each operation code the decoder gives the operation of the table with the operand fields at their bits of
`arg`, whatever the other bits of `arg` are. -/
def Obligations.PortWordFieldsDecode : Prop :=
  ∀ arg : BitVec 16,
    decode (portWord 0x0 arg) = .rxbyte (arg.extractLsb' 0 8) ∧
    decode (portWord 0x1 arg) = .txready ∧
    decode (portWord 0x2 arg) = .txcomplete ∧
    decode (portWord 0x3 arg) = .tick ∧
    decode (portWord 0x4 arg) = .rxpoll ∧
    decode (portWord 0x5 arg) = .rxr (arg.extractLsb' 0 4) ∧
    decode (portWord 0x6 arg) = .rxack ∧
    decode (portWord 0x7 arg) = .txw (arg.extractLsb' 8 4) (arg.extractLsb' 0 8) ∧
    decode (portWord 0x8 arg) = .txstart (arg.extractLsb' 0 5) ∧
    decode (portWord 0x9 arg) = .txstat ∧
    decode (portWord 0xA arg) = .goto arg ∧
    decode (portWord 0xB arg) = .zero ∧
    decode (portWord 0xC arg) = .off ∧
    decode (portWord 0xD arg) = .get ∧
    decode (portWord 0xE arg) = .reservedE ∧
    decode (portWord 0xF arg) = .reservedF

/-- Words written out in 95_test_vectors.md (P1, P2, T8) and 30_encoding.md R63 decode to the instructions they stand for. The
spec gives a port word 20 bits (R75); that the table word of 24 bits, the upper four 0, is that port word is the model's choice
(log 15, DESIGN CHOICE). -/
def Obligations.SampleWordsDecode : Prop :=
  decodeTableWord 24 0x000E8 = some (.rxbyte 0xE8) ∧
  decodeTableWord 24 0x50002 = some (.rxr 2) ∧
  decodeTableWord 24 0x70207 = some (.txw 2 0x07) ∧
  decodeTableWord 24 0x80011 = some (.txstart 17) ∧
  decodeTableWord 24 0xA03E8 = some (.goto 1000) ∧
  decodeTableWord 24 0x30000 = some .tick ∧
  decodeTableWord 24 0xF1234 = some .reservedF ∧
  decodeTableWord 8 0x04 = some .rxFe ∧
  decodeTableWord 8 0x1B = some .rxEsc ∧
  decodeTableWord 8 0x1C = some (.rxData 0x1C)

/-! ## Steps and inputs -/

/-- A step takes the first pending input; where that is a word that decodes to a well-formed instruction, the step is that
instruction's effect on the state without that input, and nothing else. That inputs are pending in a list, of which a step takes
the first, is the model's choice (log 1, DESIGN CHOICE), and that a wire byte of format W is a step of its own beside RXBYTE is
its reading (log 9, DEDUCED); R50 says that steps are atomic and ordered by the environment, R75 what a port word encodes. -/
def Obligations.StepRunsDecodedInstruction : Prop :=
  ∀ (s : State) (w : RawWord) (rest : List Input) (i : Instr),
    s.inputs = .word w :: rest → decode w = i → i.wellFormed = true →
      step s = exec i { s with inputs := rest }

/-- The reset input gives every register its value of R34 and emits nothing (R230), and leaves the configuration inputs as they
are (R232). These clauses are the model's choice (DESIGN CHOICE): the reset is taken from the list of pending inputs (log 1) and
takes none of the others away (log 22), the parameters stand in the state and stay (log 3), and no output or drop label of an
earlier step is left (log 8). What the cells of the two buffers hold after it is not stated: the spec leaves it unspecified (log
6). -/
def Obligations.ResetInputResetsEveryRegister : Prop :=
  ∀ (s : State) (rest : List Input), s.inputs = .reset :: rest →
    ∃ t, step s = .next t ∧
      t.rx.state = .idle ∧ t.rx.esc = false ∧ t.rx.len = 0 ∧ t.rx.ready = false ∧
      t.tx.state = .done ∧ t.tx.irqEn = false ∧ t.tx.drvEn = false ∧ t.tx.len = 0 ∧ t.tx.cursor = 0 ∧
      t.mot = ⟨.off, 0, 0, 0, 0, 0b000⟩ ∧
      t.out = ⟨none, none, none⟩ ∧ t.node = s.node ∧ t.params = s.params ∧ t.inputs = rest

/-- A change of the configuration inputs changes no register of the block (R30, R247). That the change is an input, taken in a
step of its own which sets the levels held in the state and clears the outputs of the last step, is the model's choice (log 4, log
1 and log 8, DESIGN CHOICE). -/
def Obligations.ConfigInputChangesNoRegister : Prop :=
  ∀ (s : State) (n : NodeConfig) (rest : List Input), s.inputs = .config n :: rest →
    step s = .next { s with node := n, inputs := rest, out := ⟨none, none, none⟩ }

/-- The model's choice (log 1): with no input pending a step changes nothing and gives no output. -/
def Obligations.NoInputNoChange : Prop :=
  ∀ s : State, s.inputs = [] → step s = .next { s with out := ⟨none, none, none⟩ }

/-! ## Reset and invariants -/

/-- R34: the reset state holds the reset values of the spec's fifteen registers. The rule leaves the cells of the two buffers and
the configuration inputs open, and nothing is stated of them. -/
def Obligations.ResetStateRegisterValues : Prop :=
  State.reset.rx.state = .idle ∧ State.reset.rx.esc = false ∧ State.reset.rx.len = 0 ∧ State.reset.rx.ready = false ∧
  State.reset.tx.state = .done ∧ State.reset.tx.irqEn = false ∧ State.reset.tx.drvEn = false ∧
  State.reset.tx.len = 0 ∧ State.reset.tx.cursor = 0 ∧
  State.reset.mot = ⟨.off, 0, 0, 0, 0, 0b000⟩

/-- The reset state is quiescent (the spec's inference R253: "the state after RESET is quiescent"), and it meets the invariant of
the machine. -/
def Obligations.ResetStateQuiescentAndInvariant : Prop :=
  State.reset.quiescent ∧ State.reset.inv

/-- The spec's inference R25 (a), (b), (d), (e) ("Invariants the rules do keep"), with the canonical form of both memories: every
step from every state that meets the invariant ends in one, whatever the input is, a reset or a change of the configuration inputs
included. How a step takes its input is the model's choice (log 1). -/
def Obligations.StepKeepsInvariant : Prop :=
  ∀ s t : State, s.inv → step s = .next t → t.inv

/-- The spec's inference R24 as far as it holds of the rules (log 20): under limits that stay constant, `position` and `target`
stay within `maxpos + OVERRUN_MARGIN`, and `target` within `maxpos` outside `Off`. How a step takes its input is the model's
choice (log 1). -/
def Obligations.StepKeepsPositionWithinLimits : Prop :=
  ∀ s t : State, s.withinLimits → (∀ n rest, s.inputs ≠ .config n :: rest) → step s = .next t → t.withinLimits

/-- The spec's inference R24 case (c): OFF right after ZERO leaves `target` above `maxpos` whenever the margin is not 0. -/
def Obligations.OffDuringHomingLeavesTargetAboveMaxpos : Prop :=
  ∀ s : State, s.configOk = true → 0 < s.params.overrunMargin →
    ∃ t u, exec .zero s = .next t ∧ exec .off t = .next u ∧
      u.mot.state = .off ∧ u.mot.target = u.mot.position ∧
      u.mot.target.toNat = s.node.maxpos.toNat + s.params.overrunMargin ∧ s.node.maxpos.toNat < u.mot.target.toNat

/-! ## LinkReceiver -/

/-- R101: FRAME_START, in any state. -/
def Obligations.FrameStartOpensRequest : Prop :=
  ∀ s : State, exec .rxFs s = .next { s with
    rx := { s.rx with state := .readingAddress, esc := false }
    out := ⟨none, none, if s.rx.state = .readingPayload then some .restart else none⟩ }

/-- R102: REPLY_START, in any state. -/
def Obligations.ReplyStartSkipsReply : Prop :=
  ∀ s : State, exec .rxRs s = .next { s with
    rx := { s.rx with state := .skippingReply, esc := false }
    out := ⟨none, none, if s.rx.state = .readingPayload then some .restart else none⟩ }

/-- R103: FRAME_END delivers in `ReadingPayload`, ends skipping in `SkippingPayload`, and is a stray end marker elsewhere, which
STRAY_END settles: it ends framing, or acts as the data byte 0x04. -/
def Obligations.FrameEndDeliversOrEndsFraming : Prop :=
  ∀ s : State,
    (s.rx.state = .readingPayload →
      exec .rxFe s = .next { s with
        rx := { s.rx with state := .idle, esc := false, ready := true }, out := ⟨none, none, none⟩ }) ∧
    (s.rx.state = .skippingPayload →
      exec .rxFe s = .next { s with
        rx := { s.rx with state := .idle, esc := false }, out := ⟨none, none, none⟩ }) ∧
    (s.rx.state = .idle ∨ s.rx.state = .readingAddress ∨ s.rx.state = .skippingReply →
      (s.params.strayEnd = .toIdle →
        exec .rxFe s = .next { s with
          rx := { s.rx with state := .idle, esc := false }, out := ⟨none, none, some .strayEnd⟩ }) ∧
      (s.params.strayEnd = .asData → exec .rxFe s = exec (.rxData 0x04) s ∧ ∃ t, exec .rxFe s = .next t))

/-- R104: REPLY_END ends skipping in `SkippingReply`, and is a stray end marker elsewhere. -/
def Obligations.ReplyEndEndsReplyOrFraming : Prop :=
  ∀ s : State,
    (s.rx.state = .skippingReply →
      exec .rxRe s = .next { s with
        rx := { s.rx with state := .idle, esc := false }, out := ⟨none, none, none⟩ }) ∧
    (s.rx.state ≠ .skippingReply →
      (s.params.strayEnd = .toIdle →
        exec .rxRe s = .next { s with
          rx := { s.rx with state := .idle, esc := false }, out := ⟨none, none, some .strayEnd⟩ }) ∧
      (s.params.strayEnd = .asData → exec .rxRe s = exec (.rxData 0x03) s ∧ ∃ t, exec .rxRe s = .next t))

/-- R105: ESCAPE sets the escape-pending flag in any state and changes nothing else. -/
def Obligations.EscapeSetsPendingFlag : Prop :=
  ∀ s : State, exec .rxEsc s = .next { s with rx := { s.rx with esc := true }, out := ⟨none, none, none⟩ }

/-- R106 with R107: a data byte in `ReadingAddress` is un-escaped and compared with the node's address; the busy latch is tested
at this byte. `c` is any byte: for one outside class RX.DATA that R103 or R104 does not hand over to R106, what RX.DATA does is
the model's choice (log 19, DESIGN CHOICE). -/
def Obligations.AddressByteSelectsNode : Prop :=
  ∀ (s : State) (c d : Byte), s.rx.state = .readingAddress → d = (if s.rx.esc then c ^^^ 0x20 else c) →
    (d = s.node.nodeAddr → s.rx.ready = false →
      exec (.rxData c) s = .next { s with
        rx := { s.rx with state := .readingPayload, esc := false, len := 0 }, out := ⟨none, none, none⟩ }) ∧
    (d = s.node.nodeAddr → s.rx.ready = true →
      exec (.rxData c) s = .next { s with
        rx := { s.rx with state := .skippingPayload, esc := false }, out := ⟨none, none, some .busy⟩ }) ∧
    (d ≠ s.node.nodeAddr →
      exec (.rxData c) s = .next { s with
        rx := { s.rx with state := .skippingPayload, esc := false }, out := ⟨none, none, some .addressMismatch⟩ })

/-- R106 with R108: a data byte in `ReadingPayload` is un-escaped and appended at `rx_len`, every other cell keeping its content;
a 17th byte abandons the frame and stores nothing. `c` is any byte: for one outside class RX.DATA that R103 or R104 does not hand
over to R106, what RX.DATA does is the model's choice (log 19, DESIGN CHOICE). -/
def Obligations.PayloadByteAppendsOrOverflows : Prop :=
  ∀ (s : State) (c d : Byte), s.rx.state = .readingPayload → d = (if s.rx.esc then c ^^^ 0x20 else c) →
    (s.rx.len.toNat < 16 → ∃ m,
      exec (.rxData c) s = .next { s with
        rx := { s.rx with esc := false, len := s.rx.len + 1, buf := m }, out := ⟨none, none, none⟩ } ∧
      cellValue .rxBuf s.resets m s.rx.len.toNat = d ∧
      ∀ a, a ≠ s.rx.len.toNat → cellValue .rxBuf s.resets m a = s.rxCell a) ∧
    (16 ≤ s.rx.len.toNat →
      exec (.rxData c) s = .next { s with
        rx := { s.rx with state := .idle, esc := false }, out := ⟨none, none, some .overflow⟩ })

/-- R106 with R109 and R110: a data byte is discarded in the two skipping states and in `Idle`; it consumes a pending escape. `c`
is any byte: for one outside class RX.DATA that R103 or R104 does not hand over to R106, what RX.DATA does is the model's choice
(log 19, DESIGN CHOICE). -/
def Obligations.DataByteOutsideFrameIsDiscarded : Prop :=
  ∀ (s : State) (c : Byte),
    (s.rx.state = .skippingPayload ∨ s.rx.state = .skippingReply →
      exec (.rxData c) s = .next { s with rx := { s.rx with esc := false }, out := ⟨none, none, none⟩ }) ∧
    (s.rx.state = .idle →
      exec (.rxData c) s = .next { s with rx := { s.rx with esc := false }, out := ⟨none, none, some .noFrame⟩ })

/-- R100: RXBYTE applies exactly one of R101 to R106, by the raw value of the byte alone; it emits nothing, touches no transmitter
or motion state, and always completes. -/
def Obligations.RxbyteDispatchesOnRawByte : Prop :=
  ∀ (s : State) (c : Byte),
    exec (.rxbyte c) s =
      (if c = 0x01 then exec .rxFs s else if c = 0x02 then exec .rxRs s else if c = 0x04 then exec .rxFe s
       else if c = 0x03 then exec .rxRe s else if c = 0x1B then exec .rxEsc s else exec (.rxData c) s) ∧
    ∃ t, exec (.rxbyte c) s = .next t ∧ t.out.emitted = none ∧ t.out.result = none ∧ t.tx = s.tx ∧ t.mot = s.mot

/-- R112: RXPOLL reports the ready message's length, or that there is none, and changes no register; `res` is laid out as R75
says. -/
def Obligations.RxpollReportsReadyLength : Prop :=
  ∀ s : State,
    (s.rx.ready = true →
      exec .rxpoll s = .next { s with out := ⟨none, some (.poll (some s.rx.len)), none⟩ } ∧
      (HostResult.poll (some s.rx.len)).bits.toNat = 32 + s.rx.len.toNat) ∧
    (s.rx.ready = false →
      exec .rxpoll s = .next { s with out := ⟨none, some (.poll none), none⟩ } ∧
      (HostResult.poll none).bits = 0)

/-- R113: RXR returns the content of the indexed cell, for every index and in every state, and changes no register. -/
def Obligations.RxrReturnsCell : Prop :=
  ∀ (s : State) (idx : BitVec 4),
    exec (.rxr idx) s = .next { s with out := ⟨none, some (.byte (s.rxCell idx.toNat)), none⟩ }

/-- R114: RXACK clears the latch and nothing else. -/
def Obligations.RxackClearsLatchOnly : Prop :=
  ∀ s : State, exec .rxack s = .next { s with rx := { s.rx with ready := false }, out := ⟨none, none, none⟩ }

/-- The spec's inference R115 (a), "Immutability while ready": while a message is ready no received byte changes the buffer, the
length or the latch. The premise is invariant (e) of R25. -/
def Obligations.ReadyMessageIsImmutable : Prop :=
  ∀ (s t : State) (c : Byte), (s.rx.state = .readingPayload → s.rx.ready = false) → s.rx.ready = true →
    exec (.rxbyte c) s = .next t →
      t.rx.ready = true ∧ t.rx.len = s.rx.len ∧ t.rx.buf = s.rx.buf ∧ t.rx.state ≠ .readingPayload

/-- R17, with the reset input of R230 that R17 leaves out: a step sets the latch only for a FRAME_END in `ReadingPayload`, and
clears it only for RXACK or the reset input. How a step takes its input is the model's choice (log 1). -/
def Obligations.LatchChangesOnlyAtFrameEndAndAck : Prop :=
  ∀ s t : State, step s = .next t →
    (s.rx.ready = false → t.rx.ready = true → s.rx.state = .readingPayload ∧
      ∃ w rest, s.inputs = .word w :: rest ∧ (decode w = .rxFe ∨ decode w = .rxbyte 0x04)) ∧
    (s.rx.ready = true → t.rx.ready = false →
      ∃ i rest, s.inputs = i :: rest ∧ (i = .reset ∨ ∃ w, i = .word w ∧ decode w = .rxack))

/-- The spec's inference R96, first part: an encoded request to this node, fed byte by byte in any receiver state while no message
is ready, is delivered whole. -/
def Obligations.RequestToThisNodeIsDelivered : Prop :=
  ∀ (s : State) (p : List Byte), p.length ≤ 16 → s.rx.ready = false →
    ∃ t, runOps ((encRequest s.node.nodeAddr p).map Instr.rxbyte) s = some ([], t) ∧
      t.rx.state = .idle ∧ t.rx.esc = false ∧ t.rx.ready = true ∧ t.rx.len.toNat = p.length ∧
      (∀ i b, p[i]? = some b → t.rxCell i = b) ∧ t.tx = s.tx ∧ t.mot = s.mot

/-- The spec's inference R96, second part: an encoded request to another address, or one that finds the latch set, leaves buffer,
length and latch as they were. -/
def Obligations.OtherRequestIsInvisible : Prop :=
  ∀ (s : State) (a : Byte) (p : List Byte), p.length ≤ 16 → (a ≠ s.node.nodeAddr ∨ s.rx.ready = true) →
    ∃ t, runOps ((encRequest a p).map Instr.rxbyte) s = some ([], t) ∧
      t.rx = { s.rx with state := .idle, esc := false } ∧ t.tx = s.tx ∧ t.mot = s.mot

/-- The spec's inference R96, third part: an encoded reply leaves buffer, length and latch as they were, in any receiver state. -/
def Obligations.ReplyIsInvisible : Prop :=
  ∀ (s : State) (p : List Byte), p.length ≤ 16 →
    ∃ t, runOps ((encReply p).map Instr.rxbyte) s = some ([], t) ∧
      t.rx = { s.rx with state := .idle, esc := false } ∧ t.tx = s.tx ∧ t.mot = s.mot

/-! ## FrameCodec -/

/-- The spec's inference R95: decoding the encoding of any list of content bytes gives the list back. -/
def Obligations.EscapeEncodingRoundTrip : Prop :=
  ∀ l : List Byte, decBody (escEncAll l) = l

/-- The spec's inference R93: the lengths of encoded bytes and frames, and every byte of one other than its first and last is
ESCAPE or 0x20 or more. The rules define both encodings for payloads of at most 16 bytes; what is said of longer ones is the
model's choice (log 23). -/
def Obligations.EncodedFrameLengthAndContent : Prop :=
  ∀ (a : Byte) (p : List Byte),
    (escEnc a).length = (if a.toNat < 0x20 then 2 else 1) ∧
    (encRequest a p).length = 2 + (if a.toNat < 0x20 then 2 else 1) + (p.map (fun b => if b.toNat < 0x20 then 2 else 1)).sum ∧
    (encReply p).length = 2 + (p.map (fun b => if b.toNat < 0x20 then 2 else 1)).sum ∧
    (p.length ≤ 16 → 3 ≤ (encRequest a p).length ∧ (encRequest a p).length ≤ 36 ∧
      2 ≤ (encReply p).length ∧ (encReply p).length ≤ 34) ∧
    (∃ w, encRequest a p = 0x01 :: (w ++ [0x04]) ∧ ∀ b ∈ w, b = 0x1B ∨ 0x20 ≤ b.toNat) ∧
    (∃ w, encReply p = 0x02 :: (w ++ [0x03]) ∧ ∀ b ∈ w, b = 0x1B ∨ 0x20 ≤ b.toNat)

/-! ## LinkTransmitter -/

/-- R131: TXW writes one cell of `tx_buf` while the transmitter is idle, every other cell keeping its content, and is refused
while it is busy. -/
def Obligations.TxwWritesOneCellOrIsRefused : Prop :=
  ∀ (s : State) (idx : BitVec 4) (b : Byte),
    (s.tx.state = .done → ∃ m,
      exec (.txw idx b) s = .next { s with tx := { s.tx with buf := m }, out := ⟨none, none, none⟩ } ∧
      cellValue .txBuf s.resets m idx.toNat = b ∧
      ∀ a, a ≠ idx.toNat → cellValue .txBuf s.resets m a = s.txCell a) ∧
    (s.tx.state ≠ .done → exec (.txw idx b) s = .refused .txBusy)

/-- R132: TXSTART starts a transmission of 0 to 16 bytes while the transmitter is idle, and is refused while it is busy or for a
longer one. -/
def Obligations.TxstartStartsOrIsRefused : Prop :=
  ∀ (s : State) (len : BitVec 5),
    (s.tx.state = .done → len.toNat ≤ 16 →
      exec (.txstart len) s = .next { s with
        tx := { s.tx with len := len, cursor := 0, state := .start, irqEn := true }, out := ⟨none, none, none⟩ }) ∧
    (s.tx.state ≠ .done → exec (.txstart len) s = .refused .txBusy) ∧
    (s.tx.state = .done → 16 < len.toNat → exec (.txstart len) s = .refused (.txLength len))

/-- R142: TXSTAT reports busy, `tx_irq_en` and `tx_drv_en` and changes no register; `res` is laid out as R75 says. -/
def Obligations.TxstatReportsStatus : Prop :=
  ∀ s : State,
    exec .txstat s = .next { s with out := ⟨none, some (.status (decide (s.tx.state ≠ .done)) s.tx.irqEn s.tx.drvEn), none⟩ } ∧
    ∀ busy irq drv : Bool, (HostResult.status busy irq drv).bits.toNat = 4 * busy.toNat + 2 * irq.toNat + drv.toNat

/-- R133: a TXREADY while `tx_irq_en = 0` has no effect and emits nothing, in any state. -/
def Obligations.MaskedTxreadyHasNoEffect : Prop :=
  ∀ s : State, s.tx.irqEn = false → exec .txready s = .next { s with out := ⟨none, none, none⟩ }

/-- R134: TXREADY in `Start`. -/
def Obligations.TxreadyInStartEmitsReplyStart : Prop :=
  ∀ s : State, s.tx.irqEn = true → s.tx.state = .start →
    exec .txready s = .next { s with
      tx := { s.tx with drvEn := true, cursor := 0, state := if s.tx.len = 0 then .endMark else .payload }
      out := ⟨some 0x02, none, none⟩ }

/-- R135: TXREADY in `Payload`, for a cursor that names a cell of `tx_buf`. -/
def Obligations.TxreadyInPayloadEmitsByteOrEscape : Prop :=
  ∀ s : State, s.tx.irqEn = true → s.tx.state = .payload → s.tx.cursor.toNat < 16 →
    ((s.txCell s.tx.cursor.toNat).toNat < 0x20 →
      exec .txready s = .next { s with tx := { s.tx with state := .escaped }, out := ⟨some 0x1B, none, none⟩ }) ∧
    (0x20 ≤ (s.txCell s.tx.cursor.toNat).toNat →
      exec .txready s = .next { s with
        tx := { s.tx with cursor := s.tx.cursor + 1, state := if s.tx.cursor + 1 = s.tx.len then .endMark else .payload }
        out := ⟨some (s.txCell s.tx.cursor.toNat), none, none⟩ })

/-- R136: TXREADY in `Escaped`, for a cursor that names a cell of `tx_buf`. -/
def Obligations.TxreadyInEscapedEmitsMaskedByte : Prop :=
  ∀ s : State, s.tx.irqEn = true → s.tx.state = .escaped → s.tx.cursor.toNat < 16 →
    exec .txready s = .next { s with
      tx := { s.tx with cursor := s.tx.cursor + 1, state := if s.tx.cursor + 1 = s.tx.len then .endMark else .payload }
      out := ⟨some (s.txCell s.tx.cursor.toNat ^^^ 0x20), none, none⟩ }

/-- R137 and R138: TXREADY in `End` emits REPLY_END; in `Done` it emits nothing and masks its own event. -/
def Obligations.TxreadyInEndAndDone : Prop :=
  ∀ s : State, s.tx.irqEn = true →
    (s.tx.state = .endMark →
      exec .txready s = .next { s with tx := { s.tx with state := .done }, out := ⟨some 0x03, none, none⟩ }) ∧
    (s.tx.state = .done →
      exec .txready s = .next { s with tx := { s.tx with irqEn := false }, out := ⟨none, none, none⟩ })

/-- The model's choice (log 10): in a state that no run reaches, a cursor of 16 or more names no cell and TXREADY faults where it
reads one; under the transmitter's invariant TXREADY always completes. -/
def Obligations.TxreadyFaultsOnlyOutsideInvariant : Prop :=
  ∀ s : State,
    (s.tx.irqEn = true → s.tx.state = .payload ∨ s.tx.state = .escaped → 16 ≤ s.tx.cursor.toNat →
      exec .txready s = .fault (.noSuchCell .txBuf s.tx.cursor.toNat)) ∧
    (s.tx.inv → ∃ t, exec .txready s = .next t)

/-- R139: TXCOMPLETE releases the bus driver in `Done` and has no effect in any other state. -/
def Obligations.TxcompleteReleasesDriverInDone : Prop :=
  ∀ s : State,
    (s.tx.state = .done →
      exec .txcomplete s = .next { s with tx := { s.tx with drvEn := false }, out := ⟨none, none, none⟩ }) ∧
    (s.tx.state ≠ .done → exec .txcomplete s = .next { s with out := ⟨none, none, none⟩ })

/-- The spec's inference R140 without interleaving: writing a payload of at most 16 bytes and starting it, then one TXREADY per
byte of `ENC_REPLY`, emits exactly `ENC_REPLY` of the payload; the next TXREADY emits nothing and masks the event, and any further
one has no effect. -/
def Obligations.TransmissionEmitsEncodedReply : Prop :=
  ∀ (s : State) (p : List Byte), p.length ≤ 16 → s.tx.state = .done →
    ∃ t, runOps (sendOps p ++ List.replicate (encReply p).length .txready) s = some (encReply p, t) ∧
      t.tx.state = .done ∧ t.tx.len.toNat = p.length ∧ t.tx.cursor = t.tx.len ∧ t.tx.irqEn = true ∧ t.tx.drvEn = true ∧
      t.rx = s.rx ∧ t.mot = s.mot ∧
      ∃ u, exec .txready t = .next u ∧ u = { t with tx := { t.tx with irqEn := false }, out := ⟨none, none, none⟩ } ∧
        exec .txready u = .next u

/-- The spec's inference R141: a step enables the bus driver only for a TXREADY in `Start` that emits REPLY_START, and releases it
only for a TXCOMPLETE in `Done` or the reset input. How a step takes its input is the model's choice (log 1). -/
def Obligations.DriverEnableWindow : Prop :=
  ∀ s t : State, step s = .next t →
    (s.tx.drvEn = false → t.tx.drvEn = true →
      s.tx.state = .start ∧ s.tx.irqEn = true ∧ t.out.emitted = some 0x02 ∧
      ∃ w rest, s.inputs = .word w :: rest ∧ decode w = .txready) ∧
    (s.tx.drvEn = true → t.tx.drvEn = false →
      ∃ i rest, s.inputs = i :: rest ∧
        (i = .reset ∨ (s.tx.state = .done ∧ ∃ w, i = .word w ∧ decode w = .txcomplete)))

/-! ## MotionController -/

/-- R151: GOTO clamps its unsigned operand to the limits and tracks it; while `Zeroing` it is a no-op. -/
def Obligations.GotoClampsAndTracks : Prop :=
  ∀ (s : State) (p : BitVec 16), s.configOk = true →
    (s.mot.state = .zeroing → exec (.goto p) s = .next { s with out := ⟨none, none, none⟩ }) ∧
    (s.mot.state ≠ .zeroing → ∃ x : BitVec 16,
      exec (.goto p) s = .next { s with mot := { s.mot with target := x, state := .on }, out := ⟨none, none, none⟩ } ∧
      x.toNat = max s.node.minpos.toNat (min p.toNat s.node.maxpos.toNat))

/-- R152: ZERO starts homing from `maxpos + OVERRUN_MARGIN`, in any motion state. -/
def Obligations.ZeroStartsHoming : Prop :=
  ∀ s : State, s.configOk = true → ∃ x : BitVec 16,
    exec .zero s = .next { s with
      mot := { s.mot with state := .zeroing, target := 0, position := x }, out := ⟨none, none, none⟩ } ∧
    x.toNat = s.node.maxpos.toNat + s.params.overrunMargin

/-- R153: OFF stops where the motor is and de-energizes the coils in this step; `ramp` and phase are kept. -/
def Obligations.OffDeenergizesAtOnce : Prop :=
  ∀ s : State, s.configOk = true →
    exec .off s = .next { s with
      mot := { s.mot with target := s.mot.position, state := .off, coil := 0b000 }, out := ⟨none, none, none⟩ }

/-- R154: GET returns `position` and `target` of one instant and changes no register; `res` is laid out as R75 says. -/
def Obligations.GetReturnsPositionAndTarget : Prop :=
  ∀ s : State, s.configOk = true →
    exec .get s = .next { s with out := ⟨none, some (.positions s.mot.position s.mot.target), none⟩ } ∧
    (HostResult.positions s.mot.position s.mot.target).bits.toNat = s.mot.position.toNat * 65536 + s.mot.target.toNat

/-- Under an ill-formed configuration every motion operation is refused, in every state (R7, R247 (c), U5). That the refusal takes
in OFF and GET, which R233 does not name, is the model's reading (log 12, DEDUCED), and so is that it takes in a TICK before the
first motion command, which R233 calls harmless (log 11, DEDUCED). -/
def Obligations.IllFormedConfigurationIsRefused : Prop :=
  ∀ (s : State) (p : BitVec 16),
    (s.node.maxpos.toNat < s.node.minpos.toNat ∨ 32767 < s.node.maxpos.toNat + s.params.overrunMargin) →
      exec (.goto p) s = .refused .illFormedConfig ∧ exec .zero s = .refused .illFormedConfig ∧
      exec .off s = .refused .illFormedConfig ∧ exec .get s = .refused .illFormedConfig ∧
      exec .tick s = .refused .illFormedConfig

/-- R155 to R163: what one TICK writes, in exact arithmetic. The end of homing (`st`, `tgt`) comes first, then the ramp by the
strict comparison, the step magnitude from the new ramp, the clamped move, the phase modulo `N` and the coil pattern of the new
phase. Every register outside the motion group is unchanged. The premises are the configuration's well-formedness (R7) and the
phase's range (R25 (d)). -/
def Obligations.TickFollowsSevenSubSteps : Prop :=
  ∀ s : State, s.configOk = true → s.mot.phase.toNat < 6 * 2 ^ s.params.microstepShift.val →
    ∃ m : Motion, exec .tick s = .next { s with mot := m, out := ⟨none, none, none⟩ } ∧
      ∃ delta moved ph : Nat,
        m.state = (if s.mot.state = .zeroing ∧ s.mot.position = s.mot.target then .on else s.mot.state) ∧
        m.target = (if s.mot.state = .zeroing ∧ s.mot.position = s.mot.target then s.node.minpos else s.mot.target) ∧
        delta = max m.target.toNat s.mot.position.toNat - min m.target.toNat s.mot.position.toNat ∧
        m.ramp.toNat = (if delta < s.mot.ramp.toNat then delta else min (s.mot.ramp.toNat + 1) 255) ∧
        moved = min (m.ramp.toNat / 2 ^ (8 - s.params.microstepShift.val) + 1) delta ∧
        m.position.toNat =
          (if s.mot.position.toNat < m.target.toNat then s.mot.position.toNat + moved else s.mot.position.toNat - moved) ∧
        ph < 6 * 2 ^ s.params.microstepShift.val ∧ m.phase.toNat = ph ∧
        (ph : Int) =
          ((s.mot.phase.toNat : Int) + (if s.mot.position.toNat < m.target.toNat then (moved : Int) else -(moved : Int))) %
            ((6 * 2 ^ s.params.microstepShift.val : Nat) : Int) ∧
        some m.coil =
          (if m.state = .off then some 0b000 else s.params.stepTable[ph / 2 ^ s.params.microstepShift.val]?)

/-- A TICK in `Off` at rest, under every well-formed configuration, moves nothing and keeps the coils off; `ramp` goes from 0 to 1
and from any other value to 0 (R158 corner case (b), R160, R162). R233 says this of ticks before the first motion command
"whatever `minpos` and `maxpos` are"; that an ill-formed configuration is refused there all the same is the model's reading (log
11, DEDUCED). -/
def Obligations.TickInOffAtRestMovesNothing : Prop :=
  ∀ s : State, s.mot.state = .off → s.mot.position = s.mot.target →
    s.mot.phase.toNat < 6 * 2 ^ s.params.microstepShift.val →
    s.configOk = true →
      exec .tick s = .next { s with
        mot := { s.mot with ramp := if s.mot.ramp = 0 then 1 else 0, coil := 0b000 }, out := ⟨none, none, none⟩ }

/-- The spec's inference R164, one tick: the distance to the target never grows and shrinks while it is not 0, by at most `2^s`,
and the position does not pass the target. `m.target` is the target after the end-of-homing test. -/
def Obligations.TickApproachesWithoutOvershoot : Prop :=
  ∀ s t : State, exec .tick s = .next t →
    (s.mot.position.toNat ≤ t.mot.target.toNat →
      s.mot.position.toNat ≤ t.mot.position.toNat ∧ t.mot.position.toNat ≤ t.mot.target.toNat ∧
      t.mot.position.toNat ≤ s.mot.position.toNat + 2 ^ s.params.microstepShift.val) ∧
    (t.mot.target.toNat ≤ s.mot.position.toNat →
      t.mot.target.toNat ≤ t.mot.position.toNat ∧ t.mot.position.toNat ≤ s.mot.position.toNat ∧
      s.mot.position.toNat ≤ t.mot.position.toNat + 2 ^ s.params.microstepShift.val) ∧
    (s.mot.position ≠ t.mot.target → t.mot.position ≠ s.mot.position)

/-- R161: a TICK changes the phase by as much as the position, modulo `N`. -/
def Obligations.PhaseTracksPosition : Prop :=
  ∀ s t : State, exec .tick s = .next t →
    ((t.mot.phase.toNat : Int) - (s.mot.phase.toNat : Int)) % ((6 * 2 ^ s.params.microstepShift.val : Nat) : Int) =
      ((t.mot.position.toNat : Int) - (s.mot.position.toNat : Int)) % ((6 * 2 ^ s.params.microstepShift.val : Nat) : Int)

/-- The spec's inference R164, a whole move: outside homing, ticks alone bring the position to the target within as many ticks as
the distance, and keep it there. -/
def Obligations.MoveCompletesWithinDistance : Prop :=
  ∀ (s : State) (k : Nat), s.configOk = true → s.mot.state ≠ .zeroing →
    max s.mot.target.toNat s.mot.position.toNat - min s.mot.target.toNat s.mot.position.toNat ≤ k →
      ∃ t, runOps (List.replicate k .tick) s = some ([], t) ∧
        t.mot.position = s.mot.target ∧ t.mot.target = s.mot.target ∧ t.mot.state = s.mot.state ∧
        t.rx = s.rx ∧ t.tx = s.tx

/-- The spec's inference R165: after ZERO, ticks alone bring the position to 0 in at most `maxpos + OVERRUN_MARGIN` ticks, still
in `Zeroing`; the next tick makes the state `On` and the target `minpos`; and after `minpos` ticks more, or any greater number,
the position is `minpos`. -/
def Obligations.HomingConverges : Prop :=
  ∀ s : State, s.configOk = true →
    ∃ (k : Nat) (t u : State), k ≤ s.node.maxpos.toNat + s.params.overrunMargin ∧
      runOps (.zero :: List.replicate k .tick) s = some ([], t) ∧
      t.mot.state = .zeroing ∧ t.mot.position = 0 ∧ t.mot.target = 0 ∧
      exec .tick t = .next u ∧ u.mot.state = .on ∧ u.mot.target = s.node.minpos ∧
      ∀ j, s.node.minpos.toNat ≤ j → ∃ v, runOps (List.replicate j .tick) u = some ([], v) ∧
        v.mot.state = .on ∧ v.mot.target = s.node.minpos ∧ v.mot.position = s.node.minpos

/-! ## The whole machine -/

/-- R77: the reserved codes are refused in every state. -/
def Obligations.ReservedCodesAreRefused : Prop :=
  ∀ s : State, exec .reservedE s = .refused (.reservedOp 0xE) ∧ exec .reservedF s = .refused (.reservedOp 0xF)

/-- R31: an instruction changes the registers of its own group only; parameters, configuration inputs, pending inputs and the
reset count are changed by none; and RXPOLL, RXR, TXSTAT and GET change no register at all (R47). That parameters, configuration
inputs, pending inputs and the reset count stand in the state is the model's choice (log 3, 4, 1, 7). -/
def Obligations.InstructionsTouchOwnGroupOnly : Prop :=
  ∀ (i : Instr) (s t : State), exec i s = .next t →
    (group i ≠ .receiver → t.rx = s.rx) ∧
    (group i ≠ .transmitter → t.tx = s.tx) ∧
    (group i ≠ .motion → t.mot = s.mot) ∧
    t.params = s.params ∧ t.node = s.node ∧ t.inputs = s.inputs ∧ t.resets = s.resets ∧
    (i = .rxpoll ∨ (∃ idx, i = .rxr idx) ∨ i = .txstat ∨ i = .get → t.rx = s.rx ∧ t.tx = s.tx ∧ t.mot = s.mot)

/-- R210: two instructions of different groups commute: taken in the other order they complete too, and end in the same state but
for the outputs of the last step. -/
def Obligations.DifferentGroupsCommute : Prop :=
  ∀ (i j : Instr) (s t u : State), group i ≠ group j → exec i s = .next t → exec j t = .next u →
    ∃ t' u', exec j s = .next t' ∧ exec i t' = .next u' ∧ u.sameBut u'

/-- R27: a byte is emitted by TXREADY alone, a value is returned by the four reading operations alone, and no instruction does
both. -/
def Obligations.OutputsOnlyWhereTheSpecGivesOne : Prop :=
  ∀ (i : Instr) (s t : State), exec i s = .next t →
    (t.out.emitted ≠ none → i = .txready ∧ s.tx.irqEn = true ∧ s.tx.state ≠ .done) ∧
    (t.out.result ≠ none → i = .rxpoll ∨ (∃ idx, i = .rxr idx) ∨ i = .txstat ∨ i = .get) ∧
    (t.out.drop ≠ none → group i = .receiver)
end

