-- ==== Sys2Proof/Laws/Decode.lean ====
section
/-! SUPPORT. The bits of a port word, and the class of a wire byte: what the decoder reads from what the encoder wrote. -/

namespace Sys2Proof

/-- Bits 15..0 of a port word are `arg`, bits 19..16 are `op` (30_encoding.md R75). -/
theorem getLsbD_portBits (op : BitVec 4) (arg : BitVec 16) (i : Nat) :
    (op ++ arg : PortWord).getLsbD i = if i < 16 then arg.getLsbD i else op.getLsbD (i - 16) := by
  have h : (op ++ arg : BitVec (4 + 16)).getLsbD i = if i < 16 then arg.getLsbD i else op.getLsbD (i - 16) := by
    rw [BitVec.getLsbD_append]
  exact h

/-- The decoder reads the operation code the encoder wrote. -/
theorem op_portBits (op : BitVec 4) (arg : BitVec 16) : PortWord.op (op ++ arg) = op := by
  unfold PortWord.op
  refine BitVec.eq_of_getLsbD_eq fun i hi => ?_
  rw [BitVec.getLsbD_extractLsb', getLsbD_portBits]
  simp [hi]

/-- A field inside `arg` is read from `arg` alone. -/
theorem field_portBits (op : BitVec 4) (arg : BitVec 16) (k l : Nat) (h : k + l ≤ 16) :
    (op ++ arg : PortWord).extractLsb' k l = arg.extractLsb' k l := by
  refine BitVec.eq_of_getLsbD_eq fun i hi => ?_
  rw [BitVec.getLsbD_extractLsb', BitVec.getLsbD_extractLsb', getLsbD_portBits, if_pos (by omega)]

/-- The mask of every row of format P keeps the operation code (R75). -/
theorem mask_portBits (op : BitVec 4) (arg : BitVec 16) :
    (op ++ arg : PortWord).toNat &&& 0xF0000 = op.toNat * 0x10000 := by
  have h1 : (op ++ arg : BitVec (4 + 16)).toNat = op.toNat <<< 16 ||| arg.toNat := BitVec.toNat_append op arg
  have h2 : (op ++ arg : PortWord).toNat = op.toNat <<< 16 ||| arg.toNat := h1
  have h3 : op.toNat * 0x10000 = op.toNat <<< 16 := by rw [Nat.shiftLeft_eq]
  have hm : (0xF0000 : Nat) = (2 ^ 4 - 1) <<< 16 := by decide
  rw [h2, h3, hm]
  refine Nat.eq_of_testBit_eq fun i => ?_
  simp only [Nat.testBit_and, Nat.testBit_or, Nat.testBit_shiftLeft, Nat.testBit_two_pow_sub_one]
  by_cases h : 16 ≤ i
  · by_cases h' : i - 16 < 4
    · have : arg.toNat.testBit i = false := Nat.testBit_lt_two_pow (Nat.lt_of_lt_of_le arg.isLt (Nat.pow_le_pow_right (by decide) h))
      simp [h, h', this]
    · have : op.toNat.testBit (i - 16) = false :=
        Nat.testBit_lt_two_pow (Nat.lt_of_lt_of_le op.isLt (Nat.pow_le_pow_right (by decide) (by omega)))
      simp [h, h', this]
  · simp [h]

/-- A port word matches a row of format P exactly when its operation code is the row's. -/
theorem matchesWord_portWord (m : String) (op : BitVec 4) (arg : BitVec 16) (k : Nat) :
    OpcodeRow.matchesWord ⟨m, 20, k * 0x10000, 0xF0000⟩ (portWord op arg) = decide (op.toNat = k) := by
  simp only [OpcodeRow.matchesWord, portWord, RawWord.widthBits, mask_portBits, true_and]
  refine decide_eq_decide.2 ⟨fun h => ?_, fun h => by rw [h]⟩
  exact Nat.eq_of_mul_eq_mul_right (by decide) h

/-- The class of a byte of class RX.DATA, and only of such a byte, is `data` (R63). -/
theorem classify_eq_data_iff (c : Byte) : classify c = .data ↔ isDataByte c = true := by
  simp only [classify, isDataByte]
  split_ifs <;> simp_all

/-- A byte of class RX.DATA decodes to that instruction. -/
theorem decodeWire_of_isDataByte {c : Byte} (h : isDataByte c = true) : decodeWire c = .rxData c := by
  simp [decodeWire, (classify_eq_data_iff c).2 h]

end Sys2Proof
end

