-- ==== Sys2Proof/Laws/State.lean ====
section
/-! SUPPORT. One lemma per field per update of State and of its groups, each true by unfolding. -/

namespace Sys2Proof.Machine

@[simp] theorem State.quiet_rx (s : State) : s.quiet.rx = s.rx := rfl
@[simp] theorem State.quiet_tx (s : State) : s.quiet.tx = s.tx := rfl
@[simp] theorem State.quiet_mot (s : State) : s.quiet.mot = s.mot := rfl
@[simp] theorem State.quiet_params (s : State) : s.quiet.params = s.params := rfl
@[simp] theorem State.quiet_node (s : State) : s.quiet.node = s.node := rfl
@[simp] theorem State.quiet_inputs (s : State) : s.quiet.inputs = s.inputs := rfl
@[simp] theorem State.quiet_out (s : State) : s.quiet.out = Outputs.none := rfl
@[simp] theorem State.quiet_resets (s : State) : s.quiet.resets = s.resets := rfl

@[simp] theorem State.returns_rx (s : State) (r : HostResult) : (s.returns r).rx = s.rx := rfl
@[simp] theorem State.returns_tx (s : State) (r : HostResult) : (s.returns r).tx = s.tx := rfl
@[simp] theorem State.returns_mot (s : State) (r : HostResult) : (s.returns r).mot = s.mot := rfl
@[simp] theorem State.returns_params (s : State) (r : HostResult) : (s.returns r).params = s.params := rfl
@[simp] theorem State.returns_node (s : State) (r : HostResult) : (s.returns r).node = s.node := rfl
@[simp] theorem State.returns_inputs (s : State) (r : HostResult) : (s.returns r).inputs = s.inputs := rfl
@[simp] theorem State.returns_out (s : State) (r : HostResult) : (s.returns r).out = ⟨none, some r, none⟩ := rfl
@[simp] theorem State.returns_resets (s : State) (r : HostResult) : (s.returns r).resets = s.resets := rfl

@[simp] theorem State.rxDone_rx (s : State) (r : Receiver × Option DropCause) : (s.rxDone r).rx = r.1 := rfl
@[simp] theorem State.rxDone_tx (s : State) (r : Receiver × Option DropCause) : (s.rxDone r).tx = s.tx := rfl
@[simp] theorem State.rxDone_mot (s : State) (r : Receiver × Option DropCause) : (s.rxDone r).mot = s.mot := rfl
@[simp] theorem State.rxDone_params (s : State) (r : Receiver × Option DropCause) : (s.rxDone r).params = s.params := rfl
@[simp] theorem State.rxDone_node (s : State) (r : Receiver × Option DropCause) : (s.rxDone r).node = s.node := rfl
@[simp] theorem State.rxDone_inputs (s : State) (r : Receiver × Option DropCause) : (s.rxDone r).inputs = s.inputs := rfl
@[simp] theorem State.rxDone_out (s : State) (r : Receiver × Option DropCause) : (s.rxDone r).out = ⟨none, none, r.2⟩ := rfl
@[simp] theorem State.rxDone_resets (s : State) (r : Receiver × Option DropCause) : (s.rxDone r).resets = s.resets := rfl

@[simp] theorem State.txDone_rx (s : State) (t : Transmitter) (e : Option Byte) : (s.txDone t e).rx = s.rx := rfl
@[simp] theorem State.txDone_tx (s : State) (t : Transmitter) (e : Option Byte) : (s.txDone t e).tx = t := rfl
@[simp] theorem State.txDone_mot (s : State) (t : Transmitter) (e : Option Byte) : (s.txDone t e).mot = s.mot := rfl
@[simp] theorem State.txDone_params (s : State) (t : Transmitter) (e : Option Byte) : (s.txDone t e).params = s.params := rfl
@[simp] theorem State.txDone_node (s : State) (t : Transmitter) (e : Option Byte) : (s.txDone t e).node = s.node := rfl
@[simp] theorem State.txDone_inputs (s : State) (t : Transmitter) (e : Option Byte) : (s.txDone t e).inputs = s.inputs := rfl
@[simp] theorem State.txDone_out (s : State) (t : Transmitter) (e : Option Byte) : (s.txDone t e).out = ⟨e, none, none⟩ := rfl
@[simp] theorem State.txDone_resets (s : State) (t : Transmitter) (e : Option Byte) : (s.txDone t e).resets = s.resets := rfl

@[simp] theorem State.motDone_rx (s : State) (m : Motion) : (s.motDone m).rx = s.rx := rfl
@[simp] theorem State.motDone_tx (s : State) (m : Motion) : (s.motDone m).tx = s.tx := rfl
@[simp] theorem State.motDone_mot (s : State) (m : Motion) : (s.motDone m).mot = m := rfl
@[simp] theorem State.motDone_params (s : State) (m : Motion) : (s.motDone m).params = s.params := rfl
@[simp] theorem State.motDone_node (s : State) (m : Motion) : (s.motDone m).node = s.node := rfl
@[simp] theorem State.motDone_inputs (s : State) (m : Motion) : (s.motDone m).inputs = s.inputs := rfl
@[simp] theorem State.motDone_out (s : State) (m : Motion) : (s.motDone m).out = Outputs.none := rfl
@[simp] theorem State.motDone_resets (s : State) (m : Motion) : (s.motDone m).resets = s.resets := rfl

@[simp] theorem takeReset_rx (s : State) : (takeReset s).rx = Receiver.reset := rfl
@[simp] theorem takeReset_tx (s : State) : (takeReset s).tx = Transmitter.reset := rfl
@[simp] theorem takeReset_mot (s : State) : (takeReset s).mot = Motion.reset := rfl
@[simp] theorem takeReset_params (s : State) : (takeReset s).params = s.params := rfl
@[simp] theorem takeReset_node (s : State) : (takeReset s).node = s.node := rfl
@[simp] theorem takeReset_inputs (s : State) : (takeReset s).inputs = s.inputs := rfl
@[simp] theorem takeReset_out (s : State) : (takeReset s).out = Outputs.none := rfl
@[simp] theorem takeReset_resets (s : State) : (takeReset s).resets = s.resets + 1 := rfl

@[simp] theorem takeConfig_rx (n : NodeConfig) (s : State) : (takeConfig n s).rx = s.rx := rfl
@[simp] theorem takeConfig_tx (n : NodeConfig) (s : State) : (takeConfig n s).tx = s.tx := rfl
@[simp] theorem takeConfig_mot (n : NodeConfig) (s : State) : (takeConfig n s).mot = s.mot := rfl
@[simp] theorem takeConfig_params (n : NodeConfig) (s : State) : (takeConfig n s).params = s.params := rfl
@[simp] theorem takeConfig_node (n : NodeConfig) (s : State) : (takeConfig n s).node = n := rfl
@[simp] theorem takeConfig_inputs (n : NodeConfig) (s : State) : (takeConfig n s).inputs = s.inputs := rfl
@[simp] theorem takeConfig_out (n : NodeConfig) (s : State) : (takeConfig n s).out = Outputs.none := rfl
@[simp] theorem takeConfig_resets (n : NodeConfig) (s : State) : (takeConfig n s).resets = s.resets := rfl

@[simp] theorem pushWord_rx (w : RawWord) (s : State) : (pushWord w s).rx = s.rx := rfl
@[simp] theorem pushWord_tx (w : RawWord) (s : State) : (pushWord w s).tx = s.tx := rfl
@[simp] theorem pushWord_mot (w : RawWord) (s : State) : (pushWord w s).mot = s.mot := rfl
@[simp] theorem pushWord_params (w : RawWord) (s : State) : (pushWord w s).params = s.params := rfl
@[simp] theorem pushWord_node (w : RawWord) (s : State) : (pushWord w s).node = s.node := rfl
@[simp] theorem pushWord_inputs (w : RawWord) (s : State) : (pushWord w s).inputs = .word w :: s.inputs := rfl
@[simp] theorem pushWord_out (w : RawWord) (s : State) : (pushWord w s).out = s.out := rfl
@[simp] theorem pushWord_resets (w : RawWord) (s : State) : (pushWord w s).resets = s.resets := rfl

@[simp] theorem Receiver.setEsc_state (r : Receiver) : r.setEsc.state = r.state := rfl
@[simp] theorem Receiver.setEsc_esc (r : Receiver) : r.setEsc.esc = true := rfl
@[simp] theorem Receiver.setEsc_len (r : Receiver) : r.setEsc.len = r.len := rfl
@[simp] theorem Receiver.setEsc_ready (r : Receiver) : r.setEsc.ready = r.ready := rfl
@[simp] theorem Receiver.setEsc_buf (r : Receiver) : r.setEsc.buf = r.buf := rfl

@[simp] theorem Receiver.clearEsc_state (r : Receiver) : r.clearEsc.state = r.state := rfl
@[simp] theorem Receiver.clearEsc_esc (r : Receiver) : r.clearEsc.esc = false := rfl
@[simp] theorem Receiver.clearEsc_len (r : Receiver) : r.clearEsc.len = r.len := rfl
@[simp] theorem Receiver.clearEsc_ready (r : Receiver) : r.clearEsc.ready = r.ready := rfl
@[simp] theorem Receiver.clearEsc_buf (r : Receiver) : r.clearEsc.buf = r.buf := rfl

@[simp] theorem Receiver.setReady_state (r : Receiver) : r.setReady.state = r.state := rfl
@[simp] theorem Receiver.setReady_esc (r : Receiver) : r.setReady.esc = r.esc := rfl
@[simp] theorem Receiver.setReady_len (r : Receiver) : r.setReady.len = r.len := rfl
@[simp] theorem Receiver.setReady_ready (r : Receiver) : r.setReady.ready = true := rfl
@[simp] theorem Receiver.setReady_buf (r : Receiver) : r.setReady.buf = r.buf := rfl

@[simp] theorem Receiver.clearReady_state (r : Receiver) : r.clearReady.state = r.state := rfl
@[simp] theorem Receiver.clearReady_esc (r : Receiver) : r.clearReady.esc = r.esc := rfl
@[simp] theorem Receiver.clearReady_len (r : Receiver) : r.clearReady.len = r.len := rfl
@[simp] theorem Receiver.clearReady_ready (r : Receiver) : r.clearReady.ready = false := rfl
@[simp] theorem Receiver.clearReady_buf (r : Receiver) : r.clearReady.buf = r.buf := rfl

@[simp] theorem Transmitter.setIrq_state (r : Transmitter) : r.setIrq.state = r.state := rfl
@[simp] theorem Transmitter.setIrq_irqEn (r : Transmitter) : r.setIrq.irqEn = true := rfl
@[simp] theorem Transmitter.setIrq_drvEn (r : Transmitter) : r.setIrq.drvEn = r.drvEn := rfl
@[simp] theorem Transmitter.setIrq_len (r : Transmitter) : r.setIrq.len = r.len := rfl
@[simp] theorem Transmitter.setIrq_cursor (r : Transmitter) : r.setIrq.cursor = r.cursor := rfl
@[simp] theorem Transmitter.setIrq_buf (r : Transmitter) : r.setIrq.buf = r.buf := rfl

@[simp] theorem Transmitter.clearIrq_state (r : Transmitter) : r.clearIrq.state = r.state := rfl
@[simp] theorem Transmitter.clearIrq_irqEn (r : Transmitter) : r.clearIrq.irqEn = false := rfl
@[simp] theorem Transmitter.clearIrq_drvEn (r : Transmitter) : r.clearIrq.drvEn = r.drvEn := rfl
@[simp] theorem Transmitter.clearIrq_len (r : Transmitter) : r.clearIrq.len = r.len := rfl
@[simp] theorem Transmitter.clearIrq_cursor (r : Transmitter) : r.clearIrq.cursor = r.cursor := rfl
@[simp] theorem Transmitter.clearIrq_buf (r : Transmitter) : r.clearIrq.buf = r.buf := rfl

@[simp] theorem Transmitter.setDrv_state (r : Transmitter) : r.setDrv.state = r.state := rfl
@[simp] theorem Transmitter.setDrv_irqEn (r : Transmitter) : r.setDrv.irqEn = r.irqEn := rfl
@[simp] theorem Transmitter.setDrv_drvEn (r : Transmitter) : r.setDrv.drvEn = true := rfl
@[simp] theorem Transmitter.setDrv_len (r : Transmitter) : r.setDrv.len = r.len := rfl
@[simp] theorem Transmitter.setDrv_cursor (r : Transmitter) : r.setDrv.cursor = r.cursor := rfl
@[simp] theorem Transmitter.setDrv_buf (r : Transmitter) : r.setDrv.buf = r.buf := rfl

@[simp] theorem Transmitter.clearDrv_state (r : Transmitter) : r.clearDrv.state = r.state := rfl
@[simp] theorem Transmitter.clearDrv_irqEn (r : Transmitter) : r.clearDrv.irqEn = r.irqEn := rfl
@[simp] theorem Transmitter.clearDrv_drvEn (r : Transmitter) : r.clearDrv.drvEn = false := rfl
@[simp] theorem Transmitter.clearDrv_len (r : Transmitter) : r.clearDrv.len = r.len := rfl
@[simp] theorem Transmitter.clearDrv_cursor (r : Transmitter) : r.clearDrv.cursor = r.cursor := rfl
@[simp] theorem Transmitter.clearDrv_buf (r : Transmitter) : r.clearDrv.buf = r.buf := rfl

@[simp] theorem Outputs.none_emitted : Outputs.none.emitted = Option.none := rfl
@[simp] theorem Outputs.none_result : Outputs.none.result = Option.none := rfl
@[simp] theorem Outputs.none_drop : Outputs.none.drop = Option.none := rfl

end Sys2Proof.Machine
end

