-- ==== Sys2Proof/Laws/FrameCodec.lean ====
section
/-! SUPPORT. What the data encoding of one content byte is, and what the receiver makes of it. -/

namespace Sys2Proof.Machine

/-- The two forms of an encoded content byte (40_frame_codec.md R90): the byte sent as content is never a control symbol. -/
theorem escEnc_cases : ∀ b : Byte,
    (b.toNat < 32 ∧ escEnc b = [0x1B, b ^^^ 0x20] ∧ classify (b ^^^ 0x20) = .data ∧ 32 ≤ (b ^^^ 0x20).toNat) ∨
    (32 ≤ b.toNat ∧ escEnc b = [b] ∧ classify b = .data) := by decide

@[simp] theorem escEncAll_nil : escEncAll [] = [] := rfl

theorem escEncAll_cons (b : Byte) (p : List Byte) : escEncAll (b :: p) = escEnc b ++ escEncAll p := rfl

theorem escMask_involutive (b : Byte) : (b ^^^ 0x20) ^^^ escMask = b := by
  rw [escMask, BitVec.xor_assoc]; simp

/-- The receiver takes in the encoding of one content byte `b` as R107 to R110 take in `b` itself, when no escape is pending. -/
theorem rxSymbol_escaped {stray : StrayEnd} {addr b : Byte} {r : Receiver} (hb : classify (b ^^^ 0x20) = .data) :
    (rxSymbol stray addr (b ^^^ 0x20) (rxEscape r).1).1 = (rxDataByte addr b { r with esc := false }).1 := by
  simp only [rxSymbol, hb, rxEscape, Receiver.setEsc, rxDataByte, contentByte, Receiver.clearEsc, if_true,
    escMask_involutive]
  cases r.state <;> rfl

end Sys2Proof.Machine
end

