-- ==== Sys2Proof/Laws/Memory.lean ====
section
/-! SUPPORT. The byte memories: read after write, canonical form, and that canonical memories with the same contents are the same
data. -/

namespace Sys2Proof.Machine

@[simp] theorem Memory.read_nil (i : Nat) : Memory.read [] i = none := rfl

theorem Memory.read_write_same (m : Memory) (i : Nat) (v : Byte) : Memory.read (Memory.write m i v) i = some v := by
  induction m with
  | nil => simp [Memory.write, Memory.read]
  | cons c rest ih =>
    obtain ⟨a, b⟩ := c
    simp only [Memory.write]
    split
    · simp [Memory.read]
    · split
      · simp [Memory.read]
      · rename_i h; simpa [Memory.read, h] using ih

theorem Memory.read_write_other (m : Memory) (i j : Nat) (v : Byte) (h : j ≠ i) :
    Memory.read (Memory.write m i v) j = Memory.read m j := by
  induction m with
  | nil => simp [Memory.write, Memory.read, h]
  | cons c rest ih =>
    obtain ⟨a, b⟩ := c
    simp only [Memory.write]
    split
    · simp [Memory.read, h]
    · split
      · rename_i h2; subst h2; simp [Memory.read, h]
      · simp [Memory.read, ih]

theorem Memory.read_write (m : Memory) (i j : Nat) (v : Byte) :
    Memory.read (Memory.write m i v) j = if j = i then some v else Memory.read m j := by
  split
  · rename_i h; subst h; exact Memory.read_write_same m j v
  · rename_i h; exact Memory.read_write_other m i j v h

@[simp] theorem cellValue_write_same (sp : BufferSpace) (k : Nat) (m : Memory) (i : Nat) (v : Byte) :
    cellValue sp k (Memory.write m i v) i = v := by
  simp [cellValue, Memory.read_write_same]

theorem cellValue_write_other (sp : BufferSpace) (k : Nat) (m : Memory) (i j : Nat) (v : Byte) (h : j ≠ i) :
    cellValue sp k (Memory.write m i v) j = cellValue sp k m j := by
  simp [cellValue, Memory.read_write_other m i j v h]

theorem Memory.wfFrom_mono {m : Memory} {lo hi : Nat} (h : lo ≤ hi) (hm : Memory.wfFrom hi m = true) :
    Memory.wfFrom lo m = true := by
  cases m with
  | nil => rfl
  | cons c rest =>
    obtain ⟨a, b⟩ := c
    simp only [Memory.wfFrom, Bool.and_eq_true, decide_eq_true_eq] at hm ⊢
    exact ⟨⟨by omega, hm.1.2⟩, hm.2⟩

theorem Memory.wfFrom_write {m : Memory} {lo i : Nat} (v : Byte) (hm : Memory.wfFrom lo m = true) (h1 : lo ≤ i)
    (h2 : i < bufferSize) : Memory.wfFrom lo (Memory.write m i v) = true := by
  induction m generalizing lo with
  | nil => simp [Memory.write, Memory.wfFrom, h1, h2]
  | cons c rest ih =>
    obtain ⟨a, b⟩ := c
    simp only [Memory.wfFrom, Bool.and_eq_true, decide_eq_true_eq] at hm
    simp only [Memory.write]
    split
    · rename_i hlt
      simp only [Memory.wfFrom, Bool.and_eq_true, decide_eq_true_eq]
      exact ⟨⟨h1, h2⟩, ⟨by omega, hm.1.2⟩, hm.2⟩
    · split
      · rename_i heq; subst heq
        simp only [Memory.wfFrom, Bool.and_eq_true, decide_eq_true_eq]
        exact ⟨hm.1, hm.2⟩
      · simp only [Memory.wfFrom, Bool.and_eq_true, decide_eq_true_eq]
        exact ⟨hm.1, ih hm.2 (by omega)⟩

/-- A write within the memory keeps the canonical form. -/
theorem Memory.wf_write {m : Memory} {i : Nat} (v : Byte) (hm : Memory.wf m = true) (h : i < bufferSize) :
    Memory.wf (Memory.write m i v) = true :=
  Memory.wfFrom_write v hm (Nat.zero_le i) h

theorem Memory.read_below {m : Memory} {lo i : Nat} (hm : Memory.wfFrom lo m = true) (h : i < lo) :
    Memory.read m i = none := by
  induction m generalizing lo with
  | nil => rfl
  | cons c rest ih =>
    obtain ⟨a, b⟩ := c
    simp only [Memory.wfFrom, Bool.and_eq_true, decide_eq_true_eq] at hm
    have : i ≠ a := by omega
    simp only [Memory.read, if_neg this]
    exact ih hm.2 (by omega)

theorem Memory.ext_from {m m' : Memory} {lo : Nat} (hm : Memory.wfFrom lo m = true) (hm' : Memory.wfFrom lo m' = true)
    (h : ∀ i, Memory.read m i = Memory.read m' i) : m = m' := by
  induction m generalizing m' lo with
  | nil =>
    cases m' with
    | nil => rfl
    | cons c rest => obtain ⟨a, b⟩ := c; simpa [Memory.read] using h a
  | cons c rest ih =>
    obtain ⟨a, b⟩ := c
    cases m' with
    | nil => simpa [Memory.read] using h a
    | cons c' rest' =>
      obtain ⟨a', b'⟩ := c'
      simp only [Memory.wfFrom, Bool.and_eq_true, decide_eq_true_eq] at hm hm'
      have ha : a = a' := by
        rcases Nat.lt_trichotomy a a' with hlt | heq | hgt
        · have := h a
          simp only [Memory.read, if_true] at this
          rw [if_neg (by omega), Memory.read_below hm'.2 (by omega)] at this
          cases this
        · exact heq
        · have := h a'
          simp only [Memory.read, if_true] at this
          rw [if_neg (by omega), Memory.read_below hm.2 (by omega)] at this
          cases this
      subst ha
      have hb : b = b' := by simpa [Memory.read] using h a
      subst hb
      refine congrArg _ (ih hm.2 hm'.2 fun i => ?_)
      by_cases hi : i = a
      · subst hi
        rw [Memory.read_below hm.2 (by omega), Memory.read_below hm'.2 (by omega)]
      · simpa [Memory.read, hi] using h i

/-- Canonical memories that read alike are the same data. -/
theorem Memory.eq_of_read_eq {m m' : Memory} (hm : Memory.wf m = true) (hm' : Memory.wf m' = true)
    (h : ∀ i, Memory.read m i = Memory.read m' i) : m = m' :=
  Memory.ext_from hm hm' h

/-- The reset state's memories have the canonical form. -/
theorem reset_memories_wf : Memory.wf State.reset.rx.buf = true ∧ Memory.wf State.reset.tx.buf = true :=
  ⟨rfl, rfl⟩

end Sys2Proof.Machine
end

