-- ==== Sys2Proof/Laws/Step.lean ====
section
/-! SUPPORT. What a step and the operations with more than one outcome can do, said once. -/

namespace Sys2Proof.Machine

/-- R7 as an arithmetic condition. -/
theorem State.configOk_iff (s : State) : s.configOk = true ↔
    s.node.minpos.toNat ≤ s.node.maxpos.toNat ∧ s.node.maxpos.toNat + s.params.overrunMargin ≤ 32767 := by
  exact decide_eq_true_iff

theorem ifConfigOk_of_ok {s : State} (h : s.configOk = true) (t : State) : ifConfigOk s t = .next t := by
  simp [ifConfigOk, h]

theorem ifConfigOk_of_not_ok {s : State} (h : s.configOk = false) (t : State) :
    ifConfigOk s t = .refused .illFormedConfig := by
  simp [ifConfigOk, h]

/-- `ifConfigOk` goes on exactly under a well-formed configuration. -/
theorem ifConfigOk_eq_next {s t u : State} : ifConfigOk s t = .next u ↔ s.configOk = true ∧ t = u := by
  cases h : s.configOk <;> simp [ifConfigOk, h]

/-- A step that answers a next state is one of these four. -/
theorem step_next_cases {s t : State} (h : step s = .next t) :
    (s.inputs = [] ∧ t = s.quiet) ∨
    (∃ w rest, s.inputs = .word w :: rest ∧ exec (decode w) { s with inputs := rest } = .next t) ∨
    (∃ rest, s.inputs = .reset :: rest ∧ t = takeReset { s with inputs := rest }) ∨
    (∃ n rest, s.inputs = .config n :: rest ∧ t = takeConfig n { s with inputs := rest }) := by
  unfold step nextInput at h
  cases hi : s.inputs with
  | nil =>
    simp only [hi, Host.Outcome.next.injEq] at h
    exact .inl ⟨rfl, h.symm⟩
  | cons i rest =>
    simp only [hi] at h
    cases i with
    | word w => exact .inr (.inl ⟨w, rest, rfl, h⟩)
    | reset =>
      simp only [deliver, Host.Outcome.next.injEq] at h
      exact .inr (.inr (.inl ⟨rest, rfl, h.symm⟩))
    | config n =>
      simp only [deliver, Host.Outcome.next.injEq] at h
      exact .inr (.inr (.inr ⟨n, rest, rfl, h.symm⟩))

/-- The word given to the block is what the very next step carries out, on the state it was given to. -/
theorem step_pushWord (w : RawWord) (s : State) : step (pushWord w s) = exec (decode w) s := rfl

/-- A table word is the very next instruction of the state it is placed in. -/
theorem step_withFetchWord {s : State} {nbits w : Nat} {i : Instr} (h : decodeTableWord nbits w = some i) :
    step (s.withFetchWord nbits w) = exec i s := by
  unfold decodeTableWord decodeBits at h
  unfold State.withFetchWord
  cases hr : rawOfBits nbits w with
  | ok r =>
    simp only [hr, Option.some.injEq] at h
    subst h
    exact step_pushWord r s
  | error e => simp [hr] at h

end Sys2Proof.Machine
end

