-- ==== Sys2Proof/Laws/Motion.lean ====
section
/-! SUPPORT. What each sub-step of TICK does, said once, in exact arithmetic. -/

namespace Sys2Proof.Machine

/-- The two outcomes of the end-of-homing test (R156). -/
theorem endHoming_cases (minpos : BitVec 16) (m : Motion) :
    (m.state = .zeroing ∧ m.position = m.target ∧ endHoming minpos m = { m with state := .on, target := minpos }) ∨
    (¬(m.state = .zeroing ∧ m.position = m.target) ∧ endHoming minpos m = m) := by
  by_cases h : m.state = .zeroing ∧ m.position = m.target
  · exact .inl ⟨h.1, h.2, by simp [endHoming, h]⟩
  · exact .inr ⟨h, by simp only [endHoming, if_neg h]⟩

@[simp] theorem endHoming_position (n : BitVec 16) (m : Motion) : (endHoming n m).position = m.position := by
  rcases endHoming_cases n m with ⟨_, _, h⟩ | ⟨_, h⟩ <;> rw [h]
@[simp] theorem endHoming_ramp (n : BitVec 16) (m : Motion) : (endHoming n m).ramp = m.ramp := by
  rcases endHoming_cases n m with ⟨_, _, h⟩ | ⟨_, h⟩ <;> rw [h]
@[simp] theorem endHoming_phase (n : BitVec 16) (m : Motion) : (endHoming n m).phase = m.phase := by
  rcases endHoming_cases n m with ⟨_, _, h⟩ | ⟨_, h⟩ <;> rw [h]

@[simp] theorem tickMove_state (p : Params) (m : Motion) : (tickMove p m).state = m.state := rfl
@[simp] theorem tickMove_target (p : Params) (m : Motion) : (tickMove p m).target = m.target := rfl
@[simp] theorem tickMove_ramp (p : Params) (m : Motion) : (tickMove p m).ramp = rampUpdate m.ramp (distanceToGo m) := rfl

@[simp] theorem driveCoils_state (p : Params) (m : Motion) : (driveCoils p m).state = m.state := rfl
@[simp] theorem driveCoils_target (p : Params) (m : Motion) : (driveCoils p m).target = m.target := rfl
@[simp] theorem driveCoils_position (p : Params) (m : Motion) : (driveCoils p m).position = m.position := rfl
@[simp] theorem driveCoils_ramp (p : Params) (m : Motion) : (driveCoils p m).ramp = m.ramp := rfl
@[simp] theorem driveCoils_phase (p : Params) (m : Motion) : (driveCoils p m).phase = m.phase := rfl
@[simp] theorem driveCoils_coil (p : Params) (m : Motion) :
    (driveCoils p m).coil = if m.state = .off then coilOff else stepPattern p m.phase := rfl

/-- The distance moved in a tick (R160). -/
def movedBy (p : Params) (m : Motion) : Nat := min (stepMagnitude p (rampUpdate m.ramp (distanceToGo m))) (distanceToGo m)

theorem movedBy_le_distanceToGo (p : Params) (m : Motion) : movedBy p m ≤ distanceToGo m := Nat.min_le_right _ _

/-- Where TICK answers a next state, it is the one the seven sub-steps give. -/
theorem execTick_eq_next {s t : State} (h : execTick s = .next t) :
    t = s.motDone (tickMotion s.params s.node.minpos s.mot) :=
  (ifConfigOk_eq_next.1 h).2.symm

/-- Under a well-formed configuration TICK completes. -/
theorem execTick_of_configOk {s : State} (h : s.configOk = true) :
    execTick s = .next (s.motDone (tickMotion s.params s.node.minpos s.mot)) :=
  ifConfigOk_of_ok h _

/-- Under an ill-formed configuration TICK is refused (R7). -/
theorem execTick_of_not_configOk {s : State} (h : s.configOk = false) : execTick s = .refused .illFormedConfig :=
  ifConfigOk_of_not_ok h _

/-- The clamp in exact arithmetic, and within the limits where they are in order (R151). -/
theorem clampPosition_toNat (p lo hi : BitVec 16) :
    (clampPosition p lo hi).toNat = max lo.toNat (min p.toNat hi.toNat) := by
  have h1 := lo.isLt
  have h2 := p.isLt
  simp only [clampPosition, BitVec.toNat_ofNat]
  omega

theorem distanceToGo_eq (m : Motion) :
    distanceToGo m = max m.target.toNat m.position.toNat - min m.target.toNat m.position.toNat := by
  unfold distanceToGo; omega

theorem rampUpdate_toNat (ramp : BitVec 8) (delta : Nat) :
    (rampUpdate ramp delta).toNat = if delta < ramp.toNat then delta else min (ramp.toNat + 1) 255 := by
  have := ramp.isLt
  unfold rampUpdate rampMax
  split <;> simp only [BitVec.toNat_ofNat] <;> omega

theorem stepMagnitude_eq (p : Params) (ramp : BitVec 8) :
    stepMagnitude p ramp = ramp.toNat / 2 ^ (8 - p.microstepShift.val) + 1 := by
  simp [stepMagnitude, rampWidth, Nat.shiftRight_eq_div_pow]

/-- The step magnitude is between 1 and `2^s` (R159). -/
theorem stepMagnitude_le (p : Params) (ramp : BitVec 8) :
    1 ≤ stepMagnitude p ramp ∧ stepMagnitude p ramp ≤ 2 ^ p.microstepShift.val := by
  rw [stepMagnitude_eq]
  refine ⟨Nat.le_add_left 1 _, ?_⟩
  have h1 := ramp.isLt
  have hs : p.microstepShift.val ≤ 8 := by omega
  have h2 : ramp.toNat / 2 ^ (8 - p.microstepShift.val) < 2 ^ p.microstepShift.val := by
    rw [Nat.div_lt_iff_lt_mul (Nat.two_pow_pos _), ← Nat.pow_add]
    rw [Nat.add_sub_cancel' hs]; exact h1
  omega

theorem moveDirection_cases (m : Motion) :
    (m.position.toNat < m.target.toNat ∧ moveDirection m = 1) ∨
    (m.target.toNat < m.position.toNat ∧ moveDirection m = -1) ∨
    (m.target.toNat = m.position.toNat ∧ moveDirection m = 0) := by
  unfold moveDirection
  rcases Nat.lt_trichotomy m.position.toNat m.target.toNat with h | h | h
  · exact .inl ⟨h, Int.sign_eq_one_of_pos (by omega)⟩
  · exact .inr (.inr ⟨h.symm, by rw [h]; simp⟩)
  · exact .inr (.inl ⟨h, Int.sign_eq_neg_one_of_neg (by omega)⟩)

/-- The position after the move, with no wrap-around (R160). -/
theorem tickMove_position_toNat (p : Params) (m : Motion) :
    (tickMove p m).position.toNat =
      if m.position.toNat < m.target.toNat then m.position.toNat + movedBy p m else m.position.toNat - movedBy p m := by
  have h1 := m.position.isLt
  have h2 := m.target.isLt
  have hd := distanceToGo_eq m
  have hm : movedBy p m ≤ distanceToGo m := Nat.min_le_right _ _
  show (BitVec.ofInt 16 ((m.position.toNat : Int) + moveDirection m * (movedBy p m : Int))).toNat = _
  rw [BitVec.toNat_ofInt]
  rcases moveDirection_cases m with ⟨h, e⟩ | ⟨h, e⟩ | ⟨h, e⟩ <;> rw [e] <;> split <;> omega

theorem phaseMod_pos (p : Params) : 0 < phaseMod p := by
  simp [phaseMod, stepTableSize]

theorem phaseMod_le (p : Params) : phaseMod p ≤ 1536 := by
  have h : 2 ^ p.microstepShift.val ≤ 2 ^ 8 := Nat.pow_le_pow_right (by decide) (by omega)
  simp only [phaseMod, stepTableSize]; omega

/-- The phase after the advance, in `0 .. N − 1` (R161). -/
theorem phaseAdvance_toNat (p : Params) (ph : BitVec 11) (d : Int) :
    ((phaseAdvance p ph d).toNat : Int) = ((ph.toNat : Int) + d) % (phaseMod p : Int) ∧
      (phaseAdvance p ph d).toNat < phaseMod p := by
  have h0 := phaseMod_pos p
  have h1 := phaseMod_le p
  have h2 := Int.emod_nonneg ((ph.toNat : Int) + d) (by omega : (phaseMod p : Int) ≠ 0)
  have h3 := Int.emod_lt_of_pos ((ph.toNat : Int) + d) (by omega : (0 : Int) < (phaseMod p : Int))
  simp only [phaseAdvance, BitVec.toNat_ofNat]
  omega

theorem tickMove_phase (p : Params) (m : Motion) :
    (tickMove p m).phase = phaseAdvance p m.phase (moveDirection m * (movedBy p m : Int)) := rfl

/-- For a phase in range the table index is the phase divided by `2^s`, and below 6 (R163). -/
theorem stepPattern_eq (p : Params) (ph : BitVec 11) (h : ph.toNat < phaseMod p) :
    some (stepPattern p ph) = p.stepTable[ph.toNat / 2 ^ p.microstepShift.val]? := by
  have hlt : ph.toNat / 2 ^ p.microstepShift.val < 6 := by
    rw [Nat.div_lt_iff_lt_mul (Nat.two_pow_pos _)]
    simpa [phaseMod, stepTableSize] using h
  rw [Vector.getElem?_eq_getElem hlt]
  simp [stepPattern, Vector.get, Fin.ofNat, Nat.shiftRight_eq_div_pow, Nat.mod_eq_of_lt hlt]

end Sys2Proof.Machine
end

