-- ==== Sys2Proof/Laws/PerInstr.lean ====
section
/-! SUPPORT. Statements about every instruction, one lemma per instruction. RowMatch: the encoding of a well-formed instruction
matches a row of spec/opcode_table.json that bears the instruction's mnemonic. -/

namespace Sys2Proof.Laws.RowMatch

/-- The encoding of `i` matches a row of the opcode table with `i`'s mnemonic. -/
def Statement (i : Instr) : Prop :=
  i.wellFormed = true → ∃ r ∈ opcodeTable, r.mnemonic = i.mnemonic ∧ r.matchesWord (encode i) = true

/-- A port word matches the row of its operation code. -/
theorem of_portRow {i : Instr} (op : BitVec 4) (arg : BitVec 16) (he : encode i = portWord op arg)
    (hr : portRows.contains ⟨i.mnemonic, 20, op.toNat * 0x10000, 0xF0000⟩ = true) : Statement i :=
  fun _ => ⟨_, List.mem_append_right _ (List.contains_iff_mem.1 hr), rfl, by rw [he, matchesWord_portWord]; simp⟩

/-- A wire byte matches the row of its value. -/
theorem of_wireRow {i : Instr} (c : Byte) (he : encode i = .wire c)
    (hr : wireRows.contains ⟨i.mnemonic, 8, c.toNat, 0xFF⟩ = true) : Statement i :=
  fun _ => ⟨_, List.mem_append_left _ (List.contains_iff_mem.1 hr), rfl, by
    simp only [he, OpcodeRow.matchesWord, RawWord.widthBits, true_and, decide_eq_true_eq]
    exact (Nat.and_two_pow_sub_one_eq_mod c.toNat 8).trans (Nat.mod_eq_of_lt c.isLt)⟩

/-- Every byte matches a row of format W with the mnemonic of its class. -/
theorem wireRow_of_byte : ∀ c : Byte, isDataByte c = true →
    wireRows.any (fun r => decide (r.mnemonic = "RX.DATA") && r.matchesWord (.wire c)) = true := by decide

theorem rxFs : Statement .rxFs := of_wireRow _ rfl rfl
theorem rxRs : Statement .rxRs := of_wireRow _ rfl rfl
theorem rxRe : Statement .rxRe := of_wireRow _ rfl rfl
theorem rxFe : Statement .rxFe := of_wireRow _ rfl rfl
theorem rxEsc : Statement .rxEsc := of_wireRow _ rfl rfl

theorem rxData (c : Byte) : Statement (.rxData c) := fun h => by
  obtain ⟨r, hr, h⟩ := List.any_eq_true.1 (wireRow_of_byte c h)
  simp only [Bool.and_eq_true, decide_eq_true_eq] at h
  exact ⟨r, List.mem_append_left _ hr, h.1, h.2⟩

theorem rxbyte (c : Byte) : Statement (.rxbyte c) := of_portRow 0x0 _ rfl rfl
theorem txready : Statement .txready := of_portRow 0x1 _ rfl rfl
theorem txcomplete : Statement .txcomplete := of_portRow 0x2 _ rfl rfl
theorem tick : Statement .tick := of_portRow 0x3 _ rfl rfl
theorem rxpoll : Statement .rxpoll := of_portRow 0x4 _ rfl rfl
theorem rxr (idx : BitVec 4) : Statement (.rxr idx) := of_portRow 0x5 _ rfl rfl
theorem rxack : Statement .rxack := of_portRow 0x6 _ rfl rfl
theorem txw (idx : BitVec 4) (b : Byte) : Statement (.txw idx b) := of_portRow 0x7 _ rfl rfl
theorem txstart (len : BitVec 5) : Statement (.txstart len) := of_portRow 0x8 _ rfl rfl
theorem txstat : Statement .txstat := of_portRow 0x9 _ rfl rfl
theorem goto (p : BitVec 16) : Statement (.goto p) := of_portRow 0xA _ rfl rfl
theorem zero : Statement .zero := of_portRow 0xB _ rfl rfl
theorem off : Statement .off := of_portRow 0xC _ rfl rfl
theorem get : Statement .get := of_portRow 0xD _ rfl rfl
theorem reservedE : Statement .reservedE := of_portRow 0xE _ rfl rfl
theorem reservedF : Statement .reservedF := of_portRow 0xF _ rfl rfl

end Sys2Proof.Laws.RowMatch
end

