-- ==== Sys2Proof/Laws/Receiver.lean ====
section
/-! SUPPORT. What each operation of the receiver can do, said once. -/

namespace Sys2Proof.Machine

/-- The three outcomes of the address filter (R107). -/
theorem rxAddress_cases (addr d : Byte) (r : Receiver) :
    (d = addr ∧ r.ready = false ∧ rxAddress addr d r = ({ r with state := .readingPayload, len := 0 }, none)) ∨
    (d = addr ∧ r.ready = true ∧ rxAddress addr d r = ({ r with state := .skippingPayload }, some .busy)) ∨
    (d ≠ addr ∧ rxAddress addr d r = ({ r with state := .skippingPayload }, some .addressMismatch)) := by
  by_cases h : d = addr <;> cases hr : r.ready <;> simp [rxAddress, h, hr]

/-- The two outcomes of a payload byte (R108). -/
theorem rxAppend_cases (d : Byte) (r : Receiver) :
    (r.len.toNat < 16 ∧
      rxAppend d r = ({ r with buf := Memory.write r.buf r.len.toNat d, len := r.len + 1 }, none)) ∨
    (16 ≤ r.len.toNat ∧ rxAppend d r = ({ r with state := .idle }, some .overflow)) := by
  by_cases h : r.len.toNat < 16
  · exact .inl ⟨h, by simp [rxAppend, maxPayload, h]⟩
  · exact .inr ⟨by omega, by simp [rxAppend, maxPayload, h]⟩

/-- A data byte outside `ReadingPayload` stores nothing, and touches the length only at an address match. -/
theorem rxDataByte_of_not_reading {addr c : Byte} {r : Receiver} (h : r.state ≠ .readingPayload) :
    (rxDataByte addr c r).1.buf = r.buf ∧ (rxDataByte addr c r).1.ready = r.ready ∧
    (r.ready = true → (rxDataByte addr c r).1.len = r.len ∧ (rxDataByte addr c r).1.state ≠ .readingPayload) := by
  cases hs : r.state with
  | readingPayload => exact absurd hs h
  | readingAddress =>
    simp only [rxDataByte, hs]
    rcases rxAddress_cases addr (contentByte r.esc c) r.clearEsc with ⟨_, hr, he⟩ | ⟨_, hr, he⟩ | ⟨_, he⟩ <;>
      simp_all
  | skippingPayload => simp [rxDataByte, hs]
  | skippingReply => simp [rxDataByte, hs]
  | idle => simp [rxDataByte, hs]

end Sys2Proof.Machine
end

