-- ==== Sys2Proof/Laws/Run.lean ====
section
/-! SUPPORT. Runs of a list of operations. -/

namespace Sys2Proof.Machine

@[simp] theorem runOps_nil (s : State) : runOps [] s = some ([], s) := rfl

theorem runOps_cons_of_next {i : Instr} {s t : State} (h : exec i s = .next t) (rest : List Instr) :
    runOps (i :: rest) s = (runOps rest t).map (fun r => (t.out.emitted.toList ++ r.1, r.2)) := by
  simp [runOps, h]

/-- A run that emits nothing in its first operation. -/
theorem runOps_cons_of_silent {i : Instr} {s t : State} (h : exec i s = .next t) (he : t.out.emitted = none)
    (rest : List Instr) : runOps (i :: rest) s = runOps rest t := by
  rw [runOps_cons_of_next h, he]
  cases runOps rest t <;> simp

/-- A run of two lists is a run of the first and then of the second, the bytes emitted in that order. -/
theorem runOps_append {l k : List Instr} {s t : State} {bs : List Byte} (h : runOps l s = some (bs, t)) :
    runOps (l ++ k) s = (runOps k t).map (fun r => (bs ++ r.1, r.2)) := by
  induction l generalizing s bs with
  | nil =>
    simp only [runOps_nil, Option.some.injEq, Prod.mk.injEq] at h
    obtain ⟨rfl, rfl⟩ := h
    cases hk : runOps k s <;> simp [hk]
  | cons i rest ih =>
    cases hx : exec i s with
    | next u =>
      rw [runOps_cons_of_next hx] at h
      cases hr : runOps rest u with
      | none => simp [hr] at h
      | some r =>
        simp only [hr, Option.map_some, Option.some.injEq, Prod.mk.injEq] at h
        obtain ⟨rfl, rfl⟩ := h
        rw [List.cons_append, runOps_cons_of_next hx, ih hr]
        cases runOps k r.2 <;> simp
    | fault f => simp [runOps, hx] at h
    | refused f => simp [runOps, hx] at h

end Sys2Proof.Machine
end

