-- ==== Sys2Proof/Laws/Transmitter.lean ====
section
/-! SUPPORT. What each operation of the transmitter can do, said once. -/

namespace Sys2Proof.Machine

theorem State.cursorByte_of_lt {s : State} (h : s.tx.cursor.toNat < 16) :
    s.cursorByte = some (s.txCell s.tx.cursor.toNat) := by
  simp [State.cursorByte, txBufSize, h]

theorem State.cursorByte_of_ge {s : State} (h : 16 ≤ s.tx.cursor.toNat) : s.cursorByte = none := by
  have : ¬ s.tx.cursor.toNat < 16 := by omega
  simp [State.cursorByte, txBufSize, this]

/-- A step that reads at the cursor goes on exactly where the cursor names a cell. -/
theorem withCursorByte_eq_next {s t : State} {f : Byte → Transmitter × Byte} (h : withCursorByte s f = .next t) :
    s.tx.cursor.toNat < 16 ∧
      t = s.txDone (f (s.txCell s.tx.cursor.toNat)).1 (some (f (s.txCell s.tx.cursor.toNat)).2) := by
  by_cases hc : s.tx.cursor.toNat < 16
  · refine ⟨hc, ?_⟩
    simpa [withCursorByte, State.cursorByte_of_lt hc] using h.symm
  · simp [withCursorByte, State.cursorByte_of_ge (by omega : 16 ≤ s.tx.cursor.toNat)] at h

@[simp] theorem Transmitter.advance_cursor (t : Transmitter) : t.advance.cursor = t.cursor + 1 := rfl
@[simp] theorem Transmitter.advance_len (t : Transmitter) : t.advance.len = t.len := rfl
@[simp] theorem Transmitter.advance_buf (t : Transmitter) : t.advance.buf = t.buf := rfl
@[simp] theorem Transmitter.advance_irqEn (t : Transmitter) : t.advance.irqEn = t.irqEn := rfl
@[simp] theorem Transmitter.advance_drvEn (t : Transmitter) : t.advance.drvEn = t.drvEn := rfl
@[simp] theorem Transmitter.advance_state (t : Transmitter) :
    t.advance.state = if t.cursor + 1 = t.len then .endMark else .payload := rfl

theorem Transmitter.busy_eq_false_iff (t : Transmitter) : t.busy = false ↔ t.state = .done := by
  simp [Transmitter.busy]

/-- The six ways in which TXREADY goes on (R133 to R138). -/
theorem execTxready_next_cases {s t : State} (h : execTxready s = .next t) :
    (s.tx.irqEn = false ∧ t = s.quiet) ∨
    (s.tx.irqEn = true ∧ s.tx.state = .start ∧ t = s.txDone (txStartStep s.tx) (some replyStart)) ∨
    (s.tx.irqEn = true ∧ s.tx.state = .payload ∧ s.tx.cursor.toNat < 16 ∧
      t = s.txDone (txPayloadStep (s.txCell s.tx.cursor.toNat) s.tx).1
        (some (txPayloadStep (s.txCell s.tx.cursor.toNat) s.tx).2)) ∨
    (s.tx.irqEn = true ∧ s.tx.state = .escaped ∧ s.tx.cursor.toNat < 16 ∧
      t = s.txDone s.tx.advance (some (s.txCell s.tx.cursor.toNat ^^^ escMask))) ∨
    (s.tx.irqEn = true ∧ s.tx.state = .endMark ∧ t = s.txDone { s.tx with state := .done } (some replyEnd)) ∨
    (s.tx.irqEn = true ∧ s.tx.state = .done ∧ t = s.txDone s.tx.clearIrq none) := by
  unfold execTxready at h
  split at h
  · rename_i hi
    exact .inl ⟨hi, (Host.Outcome.next.inj h).symm⟩
  · rename_i hi
    have hi : s.tx.irqEn = true := by simpa using hi
    split at h <;> rename_i hs
    · exact .inr (.inl ⟨hi, hs, (Host.Outcome.next.inj h).symm⟩)
    · exact .inr (.inr (.inl ⟨hi, hs, withCursorByte_eq_next h⟩))
    · exact .inr (.inr (.inr (.inl ⟨hi, hs, withCursorByte_eq_next h⟩)))
    · exact .inr (.inr (.inr (.inr (.inl ⟨hi, hs, (Host.Outcome.next.inj h).symm⟩))))
    · exact .inr (.inr (.inr (.inr (.inr ⟨hi, hs, (Host.Outcome.next.inj h).symm⟩))))

end Sys2Proof.Machine
end

