-- ==== Sys2Proof/Tests/Slice0.lean ====
section
/-! SUPPORT. Tests: the well-formedness check, words written out from the encoding tables, one step of each instruction with the
results of 95_test_vectors.md, and for every obligation with hypotheses a concrete state that meets them. -/

namespace Sys2Proof.Tests

open Sys2Proof.Machine

/-! ## Well-formedness: the check refuses each ill-formed term -/

theorem test_wf_refuses_frameStart : (Instr.rxData 0x01).wellFormed = false := by decide
theorem test_wf_refuses_replyStart : (Instr.rxData 0x02).wellFormed = false := by decide
theorem test_wf_refuses_replyEnd : (Instr.rxData 0x03).wellFormed = false := by decide
theorem test_wf_refuses_frameEnd : (Instr.rxData 0x04).wellFormed = false := by decide
theorem test_wf_refuses_escape : (Instr.rxData 0x1B).wellFormed = false := by decide
theorem test_wf_accepts_data : (Instr.rxData 0x1C).wellFormed = true ∧ (Instr.rxData 0x00).wellFormed = true := by decide

/-! ## Decoding: words written out from R63 (a byte of the wire) and R75 (`op` in bits 19..16, `arg` in bits 15..0)

A port word has 20 bits (R75); that a table word of 24 bits is one is log 15. -/

theorem test_decode_rxFs : decodeTableWord 8 0b00000001 = some .rxFs := by decide
theorem test_decode_rxRs : decodeTableWord 8 0b00000010 = some .rxRs := by decide
theorem test_decode_rxRe : decodeTableWord 8 0b00000011 = some .rxRe := by decide
theorem test_decode_rxFe : decodeTableWord 8 0b00000100 = some .rxFe := by decide
theorem test_decode_rxEsc : decodeTableWord 8 0b00011011 = some .rxEsc := by decide
/-- The lowest value of each of the eleven rows of RX.DATA (R63). -/
theorem test_decode_rxData : [0x00, 0x05, 0x06, 0x08, 0x10, 0x18, 0x1A, 0x1C, 0x20, 0x40, 0x80].map (decodeTableWord 8) =
    [0x00, 0x05, 0x06, 0x08, 0x10, 0x18, 0x1A, 0x1C, 0x20, 0x40, 0x80].map (fun c => some (.rxData c)) := by decide
/-- RXBYTE 0xE8: op 0x0, c in arg[7:0] (P1). -/
theorem test_decode_rxbyte : decodeTableWord 24 0b0000_00000000_11101000 = some (.rxbyte 0xE8) := by decide
theorem test_decode_txready : decodeTableWord 24 0b0001_0000000000000000 = some .txready := by decide
theorem test_decode_txcomplete : decodeTableWord 24 0b0010_0000000000000000 = some .txcomplete := by decide
theorem test_decode_tick : decodeTableWord 24 0b0011_0000000000000000 = some .tick := by decide
theorem test_decode_rxpoll : decodeTableWord 24 0b0100_0000000000000000 = some .rxpoll := by decide
/-- RXR 14: idx in arg[3:0]; the bits above it are ignored (R75). -/
theorem test_decode_rxr : decodeTableWord 24 0b0101_111111111111_1110 = some (.rxr 14) := by decide
theorem test_decode_rxack : decodeTableWord 24 0b0110_0000000000000000 = some .rxack := by decide
/-- TXW 9, 0xA5: idx in arg[11:8], b in arg[7:0]; arg[15:12] ignored. -/
theorem test_decode_txw : decodeTableWord 24 0b0111_1111_1001_10100101 = some (.txw 9 0xA5) := by decide
/-- TXSTART 17: len in arg[4:0] (T8). -/
theorem test_decode_txstart : decodeTableWord 24 0b1000_00000000000_10001 = some (.txstart 17) := by decide
theorem test_decode_txstat : decodeTableWord 24 0b1001_0000000000000000 = some .txstat := by decide
/-- GOTO 0x83E8: p in arg[15:0]. -/
theorem test_decode_goto : decodeTableWord 24 0b1010_1000001111101000 = some (.goto 0x83E8) := by decide
theorem test_decode_zero : decodeTableWord 24 0b1011_0000000000000000 = some .zero := by decide
theorem test_decode_off : decodeTableWord 24 0b1100_0000000000000000 = some .off := by decide
theorem test_decode_get : decodeTableWord 24 0b1101_0000000000000000 = some .get := by decide
theorem test_decode_reservedE : decodeTableWord 24 0b1110_0000000000000000 = some .reservedE := by decide
theorem test_decode_reservedF : decodeTableWord 24 0b1111_0001001000110100 = some .reservedF := by decide

/-- What is no word of either format is rejected by name (log 15). -/
theorem test_decode_rejects :
    decodeBits 16 0 = .error (.noSuchFormat 16) ∧ decodeBits 8 0x100 = .error (.bitsBeyondWord 8 0x100) ∧
    decodeBits 24 0x100000 = .error (.bitsBeyondWord 24 0x100000) := ⟨rfl, rfl, rfl⟩

/-- No word matches two rows of one format (R64): two rows differ in a bit that both masks keep. -/
theorem test_rows_disjoint :
    wireRows.Pairwise (fun a b => (a.value ^^^ b.value) &&& (a.mask &&& b.mask) ≠ 0) ∧
    portRows.Pairwise (fun a b => (a.value ^^^ b.value) &&& (a.mask &&& b.mask) ≠ 0) := by decide

/-! ## Small states: the configuration and parameters of 95_test_vectors.md, with the step table 1, …, 6 -/

/-- `s = 3`, margin 256. -/
def params (stray : StrayEnd) : Params := ⟨3, 256, #v[1, 2, 3, 4, 5, 6], stray⟩

/-- The reset state under the vectors' configuration. -/
def demo : State where
  rx := Receiver.reset
  tx := Transmitter.reset
  mot := Motion.reset
  params := params .toIdle
  node := ⟨0x40, 0, 7680⟩
  inputs := []
  out := Outputs.none
  resets := 0

/-- The demo state with the other value of STRAY_END. -/
def demoAsData : State := { demo with params := params .asData }

/-- With a receiver. -/
def rxIn (s : State) (st : RxState) (esc : Bool) (len : BitVec 5) (ready : Bool) : State :=
  { s with rx := ⟨st, esc, len, ready, [(0, 0x47), (1, 0xE8)]⟩ }

/-- With a transmitter. -/
def txIn (st : TxState) (irq drv : Bool) (len cursor : BitVec 5) : State :=
  { demo with tx := ⟨st, irq, drv, len, cursor, [(0, 0x40), (1, 0x3F), (2, 0x07), (15, 0x41)]⟩ }

/-- With a motion group. -/
def motIn (st : MotionState) (position target : BitVec 16) (ramp : BitVec 8) (phase : BitVec 11) (coil : BitVec 3) : State :=
  { demo with mot := ⟨st, position, target, ramp, phase, coil⟩ }

/-- With limits and a margin. -/
def limits (s : State) (minpos maxpos : BitVec 16) (margin : Nat) : State :=
  { s with node := ⟨0x40, minpos, maxpos⟩, params := ⟨3, margin, #v[1, 2, 3, 4, 5, 6], .toIdle⟩ }

/-- With one pending input. -/
def given (s : State) (i : Input) : State := { s with inputs := [i] }

/-- What the tests look at in a next state. -/
def after {α : Type} (i : Instr) (s : State) (f : State → α) : Option α :=
  match exec i s with
  | .next t => some (f t)
  | .fault _ => none
  | .refused _ => none

/-- `(rx_state, rx_esc, rx_len, rx_ready)` and the drop label. -/
def rxView (t : State) : RxState × Bool × Nat × Bool × Option DropCause :=
  (t.rx.state, t.rx.esc, t.rx.len.toNat, t.rx.ready, t.out.drop)

/-- `(tx_state, tx_irq_en, tx_drv_en, tx_len, tx_cursor)` and the byte emitted. -/
def txView (t : State) : TxState × Bool × Bool × Nat × Nat × Option Byte :=
  (t.tx.state, t.tx.irqEn, t.tx.drvEn, t.tx.len.toNat, t.tx.cursor.toNat, t.out.emitted)

/-- `(m_state, position, target, ramp, microstep_phase, coil_out)`. -/
def motView (t : State) : MotionState × Nat × Nat × Nat × Nat × BitVec 3 :=
  (t.mot.state, t.mot.position.toNat, t.mot.target.toNat, t.mot.ramp.toNat, t.mot.phase.toNat, t.mot.coil)

/-! ## LinkReceiver, one step each -/

/-- X12, the second FRAME_START. -/
theorem test_rxFs_restart : after .rxFs (rxIn demo .readingPayload false 2 false) rxView =
    some (.readingAddress, false, 2, false, some .restart) := by decide
/-- X20: FRAME_START clears the escape. -/
theorem test_rxFs_clears_escape : after .rxFs (rxIn demo .skippingReply true 0 false) rxView =
    some (.readingAddress, false, 0, false, none) := by decide
/-- X13, first byte. -/
theorem test_rxRs : after .rxRs demo rxView = some (.skippingReply, false, 0, false, none) := by decide
/-- X13, last byte. -/
theorem test_rxRe_ends_reply : after .rxRe (rxIn demo .skippingReply false 0 false) rxView =
    some (.idle, false, 0, false, none) := by decide
/-- X19, the byte 0x03 under AsData: stored. -/
theorem test_rxRe_as_data : after .rxRe (rxIn demoAsData .readingPayload false 2 false) (fun t => (rxView t, t.rx.buf)) =
    some ((.readingPayload, false, 3, false, none), [(0, 0x47), (1, 0xE8), (2, 0x03)]) := rfl
/-- X10: FRAME_END after ESCAPE still delivers. -/
theorem test_rxFe_delivers : after .rxFe (rxIn demo .readingPayload true 1 false) rxView =
    some (.idle, false, 1, true, none) := by decide
/-- X17, second byte: with `node_addr = 0x04` the stray 0x04 is compared as the address. -/
theorem test_rxFe_as_address :
    after .rxFe (rxIn { demoAsData with node := ⟨0x04, 0, 7680⟩ } .readingAddress false 0 false) rxView =
      some (.readingPayload, false, 0, false, none) := by decide
/-- X9: a second ESCAPE leaves the flag set. -/
theorem test_rxEsc : after .rxEsc (rxIn demo .readingPayload true 0 false) rxView =
    some (.readingPayload, true, 0, false, none) := by decide
/-- X6, the 17th data byte. -/
theorem test_rxData_overflow : after (.rxData 0x70) (rxIn demo .readingPayload false 16 false) rxView =
    some (.idle, false, 16, false, some .overflow) := by decide
/-- X11: the pair 0x1B, 0x80 is the content byte 0xA0. -/
theorem test_rxData_xors_any_byte : after (.rxData 0x80) (rxIn demo .readingPayload true 0 false) (fun t => t.rxCell 0) =
    some 0xA0 := by decide
/-- X8: the escaped address 0x04. -/
theorem test_rxbyte_escaped_address :
    after (.rxbyte 0x24) (rxIn { demo with node := ⟨0x04, 0, 7680⟩ } .readingAddress true 0 false) rxView =
      some (.readingPayload, false, 0, false, none) := by decide
/-- X4, the address byte. -/
theorem test_rxbyte_busy : after (.rxbyte 0x40) (rxIn demo .readingAddress false 3 true) rxView =
    some (.skippingPayload, false, 3, true, some .busy) := by decide
/-- After X1: `res = 0x23`. -/
theorem test_rxpoll_ready : after .rxpoll (rxIn demo .idle false 3 true) (fun t => t.out.result.map HostResult.bits) =
    some (some 0x23) := by decide
/-- After RXACK: `res = 0`, although `rx_len = 3`. -/
theorem test_rxpoll_not_ready : after .rxpoll (rxIn demo .idle false 3 false) (fun t => t.out.result.map HostResult.bits) =
    some (some 0) := by decide
/-- After X1: `RXR 1 -> 0xE8`. -/
theorem test_rxr : after (.rxr 1) (rxIn demo .idle false 3 true) (fun t => t.out.result) = some (some (.byte 0xE8)) := by decide
/-- X5: after RXACK the length stays. -/
theorem test_rxack : after .rxack (rxIn demo .idle false 3 true) rxView = some (.idle, false, 3, false, none) := by decide

/-! ## LinkTransmitter, one step each -/

/-- TXW at the last cell. -/
theorem test_txw : after (.txw 15 0x07) (txIn .done false false 0 0) (fun t => t.txCell 15) = some 0x07 := by decide
/-- T8. -/
theorem test_txw_busy : exec (.txw 0 0) (txIn .payload true true 3 1) = .refused .txBusy := rfl
/-- T1. -/
theorem test_txstart : after (.txstart 3) demo txView = some (.start, true, false, 3, 0, none) := rfl
/-- T8. -/
theorem test_txstart_length : exec (.txstart 17) demo = .refused (.txLength 17) := rfl
/-- T1, fourth TXREADY: 0x07 is below the threshold. -/
theorem test_txready_escape : after .txready (txIn .payload true true 3 2) txView =
    some (.escaped, true, true, 3, 2, some 0x1B) := rfl
/-- T1, fifth TXREADY. -/
theorem test_txready_escaped : after .txready (txIn .escaped true true 3 2) txView =
    some (.endMark, true, true, 3, 3, some 0x27) := rfl
/-- T5. -/
theorem test_txcomplete_done : after .txcomplete (txIn .done true true 1 1) txView =
    some (.done, true, false, 1, 1, none) := rfl
/-- T6. -/
theorem test_txcomplete_busy : after .txcomplete (txIn .payload true true 1 0) txView =
    some (.payload, true, true, 1, 0, none) := rfl
/-- T1: `res = 6` after TXSTART. -/
theorem test_txstat : after .txstat (txIn .start true false 3 0) (fun t => t.out.result.map HostResult.bits) =
    some (some 6) := by decide

/-! ## Motion, one step each (`T[k]` is `k + 1`) -/

/-- M4: clamped up. -/
theorem test_goto_clamps_up : after (.goto 50) (limits demo 100 7680 256) motView = some (.on, 0, 100, 0, 0, 0) := by decide
/-- M4: 0xFFFF is compared unsigned. -/
theorem test_goto_unsigned : after (.goto 0xFFFF) (limits demo 100 7680 256) motView = some (.on, 0, 7680, 0, 0, 0) := by decide
/-- M4. -/
theorem test_zero : after .zero (limits demo 100 7680 256) motView = some (.zeroing, 7936, 0, 0, 0, 0) := by decide
/-- M4: OFF. -/
theorem test_off : after .off (motIn .zeroing 7935 0 1 47 6) motView = some (.off, 7935, 7935, 1, 47, 0) := by decide
/-- P1: `res = 0x03E803E8`. -/
theorem test_get : after .get (motIn .on 1000 1000 1 40 6) (fun t => t.out.result.map HostResult.bits) =
    some (some 0x03E803E8) := by decide
/-- M6: the phase wraps downward. -/
theorem test_tick_phase_wraps : after .tick (motIn .on 500 0 140 2 1) motView = some (.on, 495, 0, 141, 45, 6) := by decide
/-- M1, tick 210: the first with `delta < ramp`. -/
theorem test_tick_decelerates : after .tick (motIn .on 797 1000 209 29 4) motView = some (.on, 804, 1000, 203, 36, 5) := by
  decide

/-! ## Reserved codes and steps -/

theorem test_reservedE : exec .reservedE demo = .refused (.reservedOp 0xE) := rfl
theorem test_reservedF : exec .reservedF demo = .refused (.reservedOp 0xF) := rfl

/-- A word placed for the next step is what the next step runs, from reset too. -/
theorem test_fetch_from_reset : step (State.reset.withFetchWord 24 0x80003) = exec (.txstart 3) State.reset := rfl

/-- The reset input keeps the configuration inputs and drops what was in flight (R230, R232). -/
theorem test_reset_input : step (given (txIn .payload true true 3 1) .reset) =
    .next { demo with resets := 1 } := rfl

/-! ## Witnesses: a state and operands that meet the hypotheses of each obligation -/

theorem witness_DecodeEncodeRoundTrip : (Instr.rxData 0xFF).wellFormed = true ∧ (Instr.txw 15 0xFF).wellFormed = true := by
  decide

/-- The word RX.FS is pending. -/
theorem witness_StepRunsDecodedInstruction :
    (given demo (.word (.wire 0x01))).inputs = .word (.wire 0x01) :: [] ∧ decode (.wire 0x01) = .rxFs ∧
      Instr.rxFs.wellFormed = true := by decide

theorem witness_ResetInputResetsEveryRegister : (given demo .reset).inputs = .reset :: [] := rfl

theorem witness_ConfigInputChangesNoRegister :
    (given demo (.config ⟨0xFF, 0, 0⟩)).inputs = .config ⟨0xFF, 0, 0⟩ :: [] := rfl

theorem witness_NoInputNoChange : demo.inputs = [] := rfl

/-- A TICK that ends homing. -/
theorem witness_StepKeepsInvariant :
    (given (motIn .zeroing 0 0 1 47 6) (.word (.port 0x30000))).inv ∧
      ∃ t, step (given (motIn .zeroing 0 0 1 47 6) (.word (.port 0x30000))) = .next t := ⟨by decide, _, rfl⟩

/-- The same TICK; the position is at the upper bound in a second state. -/
theorem witness_StepKeepsPositionWithinLimits :
    (given (motIn .zeroing 7936 0 0 0 0) (.word (.port 0x30000))).withinLimits ∧
      (∀ n rest, (given (motIn .zeroing 7936 0 0 0 0) (.word (.port 0x30000))).inputs ≠ .config n :: rest) ∧
      ∃ t, step (given (motIn .zeroing 7936 0 0 0 0) (.word (.port 0x30000))) = .next t :=
  ⟨by decide, (by intro n rest h; cases h), _, rfl⟩

theorem witness_OffDuringHomingLeavesTargetAboveMaxpos :
    (limits demo 0 32766 1).configOk = true ∧ 0 < (limits demo 0 32766 1).params.overrunMargin := by decide

theorem witness_FrameEndDeliversOrEndsFraming :
    (rxIn demo .readingPayload true 16 false).rx.state = .readingPayload ∧
    (rxIn demo .skippingPayload false 0 true).rx.state = .skippingPayload ∧
    ((rxIn demo .idle false 0 false).rx.state = .idle ∧ demo.params.strayEnd = .toIdle) ∧
    ((rxIn demoAsData .readingAddress false 0 false).rx.state = .readingAddress ∧ demoAsData.params.strayEnd = .asData) ∧
    (rxIn demoAsData .skippingReply false 0 false).rx.state = .skippingReply := by decide

theorem witness_ReplyEndEndsReplyOrFraming :
    (rxIn demo .skippingReply true 0 false).rx.state = .skippingReply ∧
    ((rxIn demo .readingPayload false 2 false).rx.state ≠ .skippingReply ∧ demo.params.strayEnd = .toIdle) ∧
    ((rxIn demoAsData .readingPayload false 2 false).rx.state ≠ .skippingReply ∧ demoAsData.params.strayEnd = .asData) := by
  decide

/-- The address 0x40 raw with the latch clear and set, an escaped byte that is not the address. -/
theorem witness_AddressByteSelectsNode :
    (rxIn demo .readingAddress false 0 false).rx.state = .readingAddress ∧ (0x40 : Byte) = demo.node.nodeAddr ∧
    (rxIn demo .readingAddress false 0 false).rx.ready = false ∧ (rxIn demo .readingAddress false 0 true).rx.ready = true ∧
    (rxIn demo .readingAddress true 0 false).rx.esc = true ∧ (0x40 ^^^ 0x20 : Byte) ≠ demo.node.nodeAddr := by decide

/-- Lengths 15 and 16. -/
theorem witness_PayloadByteAppendsOrOverflows :
    (rxIn demo .readingPayload true 15 false).rx.state = .readingPayload ∧
    (rxIn demo .readingPayload true 15 false).rx.len.toNat < 16 ∧
    16 ≤ (rxIn demo .readingPayload false 16 false).rx.len.toNat := by decide

theorem witness_DataByteOutsideFrameIsDiscarded :
    (rxIn demo .skippingPayload true 0 false).rx.state = .skippingPayload ∧
    (rxIn demo .skippingReply true 0 false).rx.state = .skippingReply ∧ (rxIn demo .idle true 0 false).rx.state = .idle := by
  decide

theorem witness_RxpollReportsReadyLength :
    (rxIn demo .idle false 16 true).rx.ready = true ∧ (rxIn demo .idle false 16 false).rx.ready = false := by decide

theorem witness_ReadyMessageIsImmutable :
    ((rxIn demo .readingAddress false 3 true).rx.state = .readingPayload →
      (rxIn demo .readingAddress false 3 true).rx.ready = false) ∧
    (rxIn demo .readingAddress false 3 true).rx.ready = true ∧
    ∃ t, exec (.rxbyte 0x40) (rxIn demo .readingAddress false 3 true) = .next t := ⟨by decide, by decide, _, rfl⟩

/-- A FRAME_END that sets the latch, an RXACK that clears it. -/
theorem witness_LatchChangesOnlyAtFrameEndAndAck :
    (∃ t, step (given (rxIn demo .readingPayload false 3 false) (.word (.wire 0x04))) = .next t ∧ t.rx.ready = true) ∧
    (∃ t, step (given (rxIn demo .idle false 3 true) (.word (.port 0x60000))) = .next t ∧ t.rx.ready = false) :=
  ⟨⟨_, rfl, rfl⟩, ⟨_, rfl, rfl⟩⟩

theorem witness_RequestToThisNodeIsDelivered :
    (List.replicate 16 (0x1B : Byte)).length ≤ 16 ∧ (rxIn demo .readingPayload true 9 false).rx.ready = false := by decide

theorem witness_OtherRequestIsInvisible :
    (List.replicate 16 (0x1B : Byte)).length ≤ 16 ∧ ((0x41 : Byte) ≠ demo.node.nodeAddr) ∧
    (rxIn demo .idle false 3 true).rx.ready = true := by decide

theorem witness_ReplyIsInvisible : (List.replicate 16 (0x03 : Byte)).length ≤ 16 ∧ ([] : List Byte).length ≤ 16 := by decide

theorem witness_EncodedFrameLengthAndContent : (List.replicate 16 (0x00 : Byte)).length ≤ 16 := by decide

theorem witness_TxwWritesOneCellOrIsRefused :
    (txIn .done true true 3 3).tx.state = .done ∧ (txIn .start true false 3 0).tx.state ≠ .done := by decide

/-- Lengths 16 and 17 of an idle transmitter, and a busy one. -/
theorem witness_TxstartStartsOrIsRefused :
    (txIn .done false false 0 0).tx.state = .done ∧ (16 : BitVec 5).toNat ≤ 16 ∧ 16 < (17 : BitVec 5).toNat ∧
    (txIn .endMark true true 3 3).tx.state ≠ .done := by decide

theorem witness_MaskedTxreadyHasNoEffect : (txIn .payload false true 3 1).tx.irqEn = false := rfl

theorem witness_TxreadyInStartEmitsReplyStart :
    (txIn .start true false 0 0).tx.irqEn = true ∧ (txIn .start true false 0 0).tx.state = .start := by decide

/-- The cursor at 15, a byte of 0x20 or more there; and a byte below 0x20 at cell 2. -/
theorem witness_TxreadyInPayloadEmitsByteOrEscape :
    (txIn .payload true true 16 15).tx.irqEn = true ∧ (txIn .payload true true 16 15).tx.state = .payload ∧
    (txIn .payload true true 16 15).tx.cursor.toNat < 16 ∧ 0x20 ≤ ((txIn .payload true true 16 15).txCell 15).toNat ∧
    ((txIn .payload true true 16 2).txCell 2).toNat < 0x20 := by decide

theorem witness_TxreadyInEscapedEmitsMaskedByte :
    (txIn .escaped true true 16 15).tx.irqEn = true ∧ (txIn .escaped true true 16 15).tx.state = .escaped ∧
    (txIn .escaped true true 16 15).tx.cursor.toNat < 16 := by decide

theorem witness_TxreadyInEndAndDone :
    (txIn .endMark true true 3 3).tx.irqEn = true ∧ (txIn .endMark true true 3 3).tx.state = .endMark ∧
    (txIn .done true true 3 3).tx.irqEn = true ∧ (txIn .done true true 3 3).tx.state = .done := by decide

/-- The cursor at 16, outside the invariant; and a state within it. -/
theorem witness_TxreadyFaultsOnlyOutsideInvariant :
    (txIn .payload true true 16 16).tx.irqEn = true ∧ (txIn .payload true true 16 16).tx.state = .payload ∧
    16 ≤ (txIn .payload true true 16 16).tx.cursor.toNat ∧ (txIn .payload true true 16 15).tx.inv := by decide

theorem witness_TxcompleteReleasesDriverInDone :
    (txIn .done false true 3 3).tx.state = .done ∧ (txIn .endMark true true 3 3).tx.state ≠ .done := by decide

theorem witness_TransmissionEmitsEncodedReply :
    (List.replicate 16 (0x00 : Byte)).length ≤ 16 ∧ (txIn .done true true 3 3).tx.state = .done := by decide

/-- A TXREADY that enables the driver, a TXCOMPLETE that releases it. -/
theorem witness_DriverEnableWindow :
    (∃ t, step (given (txIn .start true false 3 0) (.word (.port 0x10000))) = .next t ∧ t.tx.drvEn = true) ∧
    (∃ t, step (given (txIn .done false true 3 3) (.word (.port 0x20000))) = .next t ∧ t.tx.drvEn = false) :=
  ⟨⟨_, rfl, rfl⟩, ⟨_, rfl, rfl⟩⟩

/-- Limits that are just well-formed: `minpos = maxpos`, and `maxpos + margin = 32767`. -/
theorem witness_GotoClampsAndTracks :
    (limits (motIn .zeroing 5 0 0 0 0) 32766 32766 1).configOk = true ∧
    (limits (motIn .zeroing 5 0 0 0 0) 32766 32766 1).mot.state = .zeroing ∧
    (limits (motIn .off 5 5 0 0 0) 32766 32766 1).mot.state ≠ .zeroing := by decide

theorem witness_ZeroStartsHoming : (limits demo 0 32767 0).configOk = true := by decide

theorem witness_OffDeenergizesAtOnce : (limits (motIn .on 5 9 3 2 1) 0 32767 0).configOk = true := by decide

theorem witness_GetReturnsPositionAndTarget : (limits (motIn .on 5 9 3 2 1) 0 0 0).configOk = true := by decide

/-- `maxpos` just below `minpos`; `maxpos + margin` just above the bound. -/
theorem witness_IllFormedConfigurationIsRefused :
    (limits demo 8 7 0).node.maxpos.toNat < (limits demo 8 7 0).node.minpos.toNat ∧
    32767 < (limits demo 0 32767 1).node.maxpos.toNat + (limits demo 0 32767 1).params.overrunMargin := by decide

/-- The phase at `N - 1 = 47`. -/
theorem witness_TickFollowsSevenSubSteps :
    (motIn .zeroing 0 0 255 47 6).configOk = true ∧
    (motIn .zeroing 0 0 255 47 6).mot.phase.toNat < 6 * 2 ^ (motIn .zeroing 0 0 255 47 6).params.microstepShift.val := by
  decide

/-- At rest in `Off` at 9, the phase at `N - 1 = 47`. -/
theorem witness_TickInOffAtRestMovesNothing :
    (motIn .off 9 9 255 47 0).mot.state = .off ∧
    (motIn .off 9 9 255 47 0).mot.position = (motIn .off 9 9 255 47 0).mot.target ∧
    (motIn .off 9 9 255 47 0).mot.phase.toNat < 6 * 2 ^ (motIn .off 9 9 255 47 0).params.microstepShift.val ∧
    (motIn .off 9 9 255 47 0).configOk = true := by decide

/-- A TICK upward, one downward, one at the target. -/
theorem witness_TickApproachesWithoutOvershoot :
    (∃ t, exec .tick (motIn .on 5 9 0 5 6) = .next t ∧ 5 ≤ t.mot.target.toNat ∧ (5 : BitVec 16) ≠ t.mot.target) ∧
    (∃ t, exec .tick (motIn .on 9 5 0 5 6) = .next t ∧ t.mot.target.toNat ≤ 9) ∧
    (∃ t, exec .tick (motIn .on 5 5 0 5 6) = .next t ∧ t.mot.target.toNat = 5) :=
  ⟨⟨_, rfl, by decide⟩, ⟨_, rfl, by decide⟩, ⟨_, rfl, by decide⟩⟩

theorem witness_PhaseTracksPosition : ∃ t, exec .tick (motIn .on 5 0 255 0 1) = .next t := ⟨_, rfl⟩

/-- A distance of 0 in no tick, and one of 3 in exactly 3. -/
theorem witness_MoveCompletesWithinDistance :
    (motIn .on 5 8 0 5 1).configOk = true ∧ (motIn .on 5 8 0 5 1).mot.state ≠ .zeroing ∧ max 8 5 - min 8 5 ≤ 3 ∧
    (motIn .off 5 5 0 5 0).mot.state ≠ .zeroing ∧ max 5 5 - min 5 5 ≤ 0 := by decide

theorem witness_HomingConverges : (limits demo 3 20 5).configOk = true ∧ (limits demo 0 0 0).configOk = true := by decide

theorem witness_InstructionsTouchOwnGroupOnly :
    ∃ t, exec .rxpoll demo = .next t ∧ group .rxpoll ≠ .transmitter ∧ group .rxpoll ≠ .motion := ⟨_, rfl, by decide⟩

theorem witness_DifferentGroupsCommute :
    group (.goto 1000) ≠ group .rxFs ∧ ∃ t u, exec (.goto 1000) demo = .next t ∧ exec .rxFs t = .next u :=
  ⟨by decide, _, _, rfl, rfl⟩

/-- A step that emits, one that returns a value, one that drops. -/
theorem witness_OutputsOnlyWhereTheSpecGivesOne :
    (∃ t, exec .txready (txIn .start true false 3 0) = .next t ∧ t.out.emitted ≠ none) ∧
    (∃ t, exec .get demo = .next t ∧ t.out.result ≠ none) ∧
    (∃ t, exec (.rxData 0x55) demo = .next t ∧ t.out.drop ≠ none) :=
  ⟨⟨_, rfl, by decide⟩, ⟨_, rfl, by decide⟩, ⟨_, rfl, by decide⟩⟩

end Sys2Proof.Tests
end

section
/-! The gate of the motion operations: the five instructions of the motion group ask for a well-formed configuration and for
nothing else (00_scope.md R7). -/

namespace Sys2Proof.Machine

/-- The complement of R7 as an arithmetic condition. -/
theorem State.configOk_eq_false_iff (s : State) : s.configOk = false ↔
    s.node.maxpos.toNat < s.node.minpos.toNat ∨ 32767 < s.node.maxpos.toNat + s.params.overrunMargin := by
  rw [← Bool.not_eq_true, State.configOk_iff]
  omega

/-- An instruction of the motion group is the gate of R7 around one next state. -/
theorem exec_motion_eq_ifConfigOk {i : Instr} (hi : group i = .motion) (s : State) : ∃ t, exec i s = ifConfigOk s t := by
  cases i with
  | tick => exact ⟨_, rfl⟩
  | goto p => exact ⟨_, rfl⟩
  | zero => exact ⟨_, rfl⟩
  | off => exact ⟨_, rfl⟩
  | get => exact ⟨_, rfl⟩
  | _ => simp [group] at hi

/-- Under an ill-formed configuration the whole motion group is refused, whatever its registers hold (R247 (c), U5). -/
theorem exec_motion_of_not_configOk {i : Instr} (hi : group i = .motion) {s : State} (h : s.configOk = false) :
    exec i s = .refused .illFormedConfig := by
  obtain ⟨t, ht⟩ := exec_motion_eq_ifConfigOk hi s
  rw [ht, ifConfigOk_of_not_ok h]

/-- Settles O49: each of the five operations is of the motion group, which is refused once R7 fails. -/
theorem illFormedConfigurationIsRefused : Obligations.IllFormedConfigurationIsRefused := by
  intro s p hlimits
  have hbad : s.configOk = false := s.configOk_eq_false_iff.2 hlimits
  have refused (i : Instr) (hi : group i = .motion) : exec i s = .refused .illFormedConfig :=
    exec_motion_of_not_configOk hi hbad
  exact ⟨refused (.goto p) rfl, refused .zero rfl, refused .off rfl, refused .get rfl, refused .tick rfl⟩

end Sys2Proof.Machine
end

section
/-! What an instruction that completes can do to the state, said once: it writes the registers of its own group, or it is one of
the four reading operations and writes none (10_state.md R27, R31, 20_memory.md R47). -/

namespace Sys2Proof.Machine

/-- The four operations that answer the host with a value and change no register (20_memory.md R47). -/
def readsOnly : Instr → Bool
  | .rxpoll | .rxr _ | .txstat | .get => true
  | _ => false

theorem readsOnly_iff (i : Instr) :
    readsOnly i = true ↔ i = .rxpoll ∨ (∃ idx, i = .rxr idx) ∨ i = .txstat ∨ i = .get := by
  cases i <;> simp [readsOnly]

/-- The next states an instruction can end in: one group's registers are written, or a value is returned. A byte can be emitted
by the transmitter alone, and under the conditions of R133 and R138 only. -/
inductive Effect (i : Instr) (s : State) : State → Prop
  | receiver (hgroup : group i = .receiver) (hreads : readsOnly i = false) (r : Receiver × Option DropCause) :
      Effect i s (s.rxDone r)
  | transmitter (hgroup : group i = .transmitter) (hreads : readsOnly i = false) (u : Transmitter) (e : Option Byte)
      (hemit : e ≠ none → i = .txready ∧ s.tx.irqEn = true ∧ s.tx.state ≠ .done) : Effect i s (s.txDone u e)
  | motion (hgroup : group i = .motion) (hreads : readsOnly i = false) (m : Motion) : Effect i s (s.motDone m)
  | reading (hreads : readsOnly i = true) (r : HostResult) : Effect i s (s.returns r)

/-- TXREADY writes the transmitter, and emits only while it is enabled and not `Done` (R133 to R138). -/
theorem execTxready_effect {s t : State} (h : execTxready s = .next t) : Effect .txready s t := by
  rcases execTxready_next_cases h with ⟨_, rfl⟩ | ⟨hi, hs, rfl⟩ | ⟨hi, hs, _, rfl⟩ | ⟨hi, hs, _, rfl⟩ | ⟨hi, hs, rfl⟩ |
    ⟨_, _, rfl⟩
  case inl => exact .transmitter rfl rfl s.tx none (absurd rfl)
  case inr.inr.inr.inr.inr => exact .transmitter rfl rfl _ _ (absurd rfl)
  all_goals exact .transmitter rfl rfl _ _ fun _ => ⟨rfl, hi, by simp [hs]⟩

/-- An instruction of the transmitter other than TXREADY emits nothing. -/
theorem Effect.silent {i : Instr} {s : State} (hgroup : group i = .transmitter) (hreads : readsOnly i = false)
    (u : Transmitter) : Effect i s (s.txDone u none) :=
  .transmitter hgroup hreads u none (absurd rfl)

/-- Every instruction that completes has one of the four effects. -/
theorem exec_effect {i : Instr} {s t : State} (h : exec i s = .next t) : Effect i s t := by
  cases i with
  | rxFs | rxRs | rxRe | rxFe | rxEsc | rxData c | rxbyte c | rxack =>
    obtain rfl := Host.Outcome.next.inj h
    exact .receiver rfl rfl _
  | rxpoll | rxr idx | txstat =>
    obtain rfl := Host.Outcome.next.inj h
    exact .reading rfl _
  | txready => exact execTxready_effect h
  | txcomplete =>
    obtain rfl := Host.Outcome.next.inj h
    exact .silent rfl rfl _
  | txw idx b =>
    simp only [exec, execTxw] at h
    split at h
    · cases h
    · obtain rfl := Host.Outcome.next.inj h
      exact .silent rfl rfl _
  | txstart len =>
    simp only [exec, execTxstart] at h
    split at h
    · cases h
    · split at h
      · cases h
      · obtain rfl := Host.Outcome.next.inj h
        exact .silent rfl rfl _
  | tick | goto p | zero | off =>
    obtain ⟨_, rfl⟩ := ifConfigOk_eq_next.1 h
    exact .motion rfl rfl _
  | get =>
    obtain ⟨_, rfl⟩ := ifConfigOk_eq_next.1 h
    exact .reading rfl _
  | reservedE | reservedF => cases h

/-- Settles O57: each of the four effects leaves the other groups, and a reading all three, as they were. -/
theorem instructionsTouchOwnGroupOnly : Obligations.InstructionsTouchOwnGroupOnly := by
  intro i s t h
  rw [← readsOnly_iff]
  cases exec_effect h with
  | receiver hgroup hreads r => simp [hgroup, hreads]
  | transmitter hgroup hreads u e hemit => simp [hgroup, hreads]
  | motion hgroup hreads m => simp [hgroup, hreads]
  | reading hreads r => simp

/-- Settles O59: the outputs of each of the four effects. -/
theorem outputsOnlyWhereTheSpecGivesOne : Obligations.OutputsOnlyWhereTheSpecGivesOne := by
  intro i s t h
  rw [← readsOnly_iff]
  cases exec_effect h with
  | receiver hgroup hreads r => simp [hgroup]
  | transmitter hgroup hreads u e hemit => simpa using hemit
  | motion hgroup hreads m => simp
  | reading hreads r => simp [hreads]

end Sys2Proof.Machine
end

section
/-! The ready latch (10_state.md R17): what each operation of the receiver leaves in it. -/

namespace Sys2Proof.Machine

/-- A data byte never touches the latch (R106 to R110). -/
@[simp] theorem rxDataByte_ready (addr c : Byte) (r : Receiver) : (rxDataByte addr c r).1.ready = r.ready := by
  by_cases hs : r.state = .readingPayload
  · simp only [rxDataByte, hs]
    rcases rxAppend_cases (contentByte r.esc c) r.clearEsc with ⟨_, he⟩ | ⟨_, he⟩ <;> simp [he]
  · obtain ⟨_, hready, _⟩ := rxDataByte_of_not_reading (addr := addr) (c := c) hs
    exact hready

/-- A stray end marker never touches the latch, whatever STRAY_END is. -/
@[simp] theorem rxStrayEnd_ready (stray : StrayEnd) (addr c : Byte) (r : Receiver) :
    (rxStrayEnd stray addr c r).1.ready = r.ready := by
  cases stray with
  | toIdle => rfl
  | asData => exact rxDataByte_ready addr c r

@[simp] theorem rxReplyEnd_ready (stray : StrayEnd) (addr : Byte) (r : Receiver) :
    (rxReplyEnd stray addr r).1.ready = r.ready := by
  cases hs : r.state <;> simp [rxReplyEnd, hs]

/-- FRAME_END leaves the latch set in `ReadingPayload` and as it was elsewhere (R103). -/
theorem rxFrameEnd_ready (stray : StrayEnd) (addr : Byte) (r : Receiver) :
    (rxFrameEnd stray addr r).1.ready = if r.state = .readingPayload then true else r.ready := by
  cases hs : r.state with
  | readingPayload => cases hr : r.ready <;> simp [rxFrameEnd, hs, hr]
  | _ => simp [rxFrameEnd, hs]

/-- Only the byte 0x04 is of class FRAME_END (30_encoding.md R63). -/
theorem classify_eq_frameEnd_iff (c : Byte) : classify c = .frameEnd ↔ c = frameEnd := by
  unfold classify
  split_ifs <;> simp_all [frameStart, replyStart, frameEnd]

/-- A received byte sets the latch only where it is a FRAME_END in `ReadingPayload`, and otherwise keeps it (R100). -/
theorem rxSymbol_ready (stray : StrayEnd) (addr c : Byte) (r : Receiver) :
    (rxSymbol stray addr c r).1.ready = if c = frameEnd ∧ r.state = .readingPayload then true else r.ready := by
  simp only [← classify_eq_frameEnd_iff]
  cases hc : classify c with
  | frameEnd => simp [rxSymbol, hc, rxFrameEnd_ready]
  | frameStart | replyStart | replyEnd | escape | data => simp [rxSymbol, hc, rxFrameStart, rxReplyStart, rxEscape]

/-- What an instruction that completes does to the latch: it keeps it, or delivers a frame, or is RXACK (R17). -/
theorem exec_ready_cases {i : Instr} {s t : State} (h : exec i s = .next t) :
    t.rx.ready = s.rx.ready ∨
    (t.rx.ready = true ∧ s.rx.state = .readingPayload ∧ (i = .rxFe ∨ i = .rxbyte frameEnd)) ∨
    (t.rx.ready = false ∧ i = .rxack) := by
  by_cases hgroup : group i = .receiver
  · cases i with
    | rxFs | rxRs | rxEsc | rxpoll | rxr idx =>
      obtain rfl := Host.Outcome.next.inj h
      exact .inl rfl
    | rxRe =>
      obtain rfl := Host.Outcome.next.inj h
      exact .inl (rxReplyEnd_ready _ _ _)
    | rxData c =>
      obtain rfl := Host.Outcome.next.inj h
      exact .inl (rxDataByte_ready _ _ _)
    | rxFe =>
      obtain rfl := Host.Outcome.next.inj h
      by_cases hs : s.rx.state = .readingPayload <;> simp [rxFrameEnd_ready, hs]
    | rxbyte c =>
      obtain rfl := Host.Outcome.next.inj h
      by_cases hc : c = frameEnd ∧ s.rx.state = .readingPayload
      · exact .inr (.inl ⟨by simp [rxSymbol_ready, hc], hc.2, .inr (congrArg _ hc.1)⟩)
      · exact .inl (by simp [rxSymbol_ready, hc])
    | rxack =>
      obtain rfl := Host.Outcome.next.inj h
      exact .inr (.inr ⟨rfl, rfl⟩)
    | _ => simp [group] at hgroup
  · obtain ⟨hrx, _⟩ := instructionsTouchOwnGroupOnly i s t h
    exact .inl (by rw [hrx hgroup])

/-- Settles O27: an idle step and a configuration change keep the receiver, the reset input clears the latch, and a word does to
it what its instruction does. -/
theorem latchChangesOnlyAtFrameEndAndAck : Obligations.LatchChangesOnlyAtFrameEndAndAck := by
  intro s t h
  rcases step_next_cases h with ⟨_, rfl⟩ | ⟨w, rest, hin, hexec⟩ | ⟨rest, hin, rfl⟩ | ⟨n, rest, _, rfl⟩
  · simp +contextual
  · rcases exec_ready_cases hexec with hkeep | ⟨hset, hs, hi⟩ | ⟨hclear, hi⟩
    · simp +contextual [hkeep]
    · exact ⟨fun _ _ => ⟨hs, w, rest, hin, hi⟩, fun _ hclear => by simp [hset] at hclear⟩
    · exact ⟨fun _ hset => by simp [hclear] at hset, fun _ _ => ⟨_, rest, hin, .inr ⟨w, rfl, hi⟩⟩⟩
  · exact ⟨fun _ hset => absurd hset Bool.false_ne_true, fun _ _ => ⟨_, rest, hin, .inl rfl⟩⟩
  · simp +contextual

end Sys2Proof.Machine
end

section
/-! The inputs beside the encoded words (10_state.md R30, R34): a change of the configuration inputs, and the reset state. -/

namespace Sys2Proof.Machine

/-- A step with an input pending carries out the first one, on the state without it (20_memory.md R50). -/
theorem step_of_inputs_cons {s : State} {i : Input} {rest : List Input} (h : s.inputs = i :: rest) :
    step s = deliver i { s with inputs := rest } := by
  simp [step, nextInput, h]

/-- Settles O7: the step is `takeConfig`, which writes the levels and the outputs alone. -/
theorem configInputChangesNoRegister : Obligations.ConfigInputChangesNoRegister := by
  intro s n rest hin
  rw [step_of_inputs_cons hin]
  rfl

/-- Settles O9: every register of the reset state is the one R34 gives, by the definition of the three groups' reset values. -/
theorem resetStateRegisterValues : Obligations.ResetStateRegisterValues :=
  ⟨rfl, rfl, rfl, rfl, rfl, rfl, rfl, rfl, rfl, rfl⟩

theorem Receiver.reset_inv : Receiver.reset.inv := by decide

theorem Transmitter.reset_inv : Transmitter.reset.inv := by decide

/-- The reset phase 0 is below `N` for every value of the parameters, so the motion group meets its invariant under all of them. -/
theorem Motion.reset_inv (p : Params) : Motion.reset.inv p :=
  ⟨Nat.zero_le _, Nat.zero_le _, phaseMod_pos p, fun _ => ⟨rfl, rfl⟩, nofun⟩

/-- The reset state is quiescent (70_reset_and_hazards.md R253). -/
theorem State.reset_quiescent : State.reset.quiescent :=
  ⟨⟨rfl, rfl⟩, ⟨rfl, rfl, rfl⟩, rfl, nofun⟩

/-- Settles O10: quiescence, and the invariant group by group. -/
theorem resetStateQuiescentAndInvariant : Obligations.ResetStateQuiescentAndInvariant :=
  ⟨State.reset_quiescent, Receiver.reset_inv, Transmitter.reset_inv, Motion.reset_inv _⟩

end Sys2Proof.Machine
end

section
/-! Steps on pending inputs (20_memory.md R50): a word is its instruction, and without an input a step is quiet. -/

namespace Sys2Proof.Machine

/-- Settles O5: the pending word is delivered, and delivering a word carries out the instruction it decodes to. -/
theorem stepRunsDecodedInstruction : Obligations.StepRunsDecodedInstruction := by
  rintro s w rest i hin rfl _
  exact step_of_inputs_cons hin

/-- With no input pending a step clears the outputs and does nothing else. -/
theorem step_of_inputs_nil {s : State} (h : s.inputs = []) : step s = .next s.quiet := by
  simp [step, nextInput, h]

/-- Settles O8: the step is the quiet one, whose registers and inputs are those before it. -/
theorem noInputNoChange : Obligations.NoInputNoChange := fun _ => step_of_inputs_nil

end Sys2Proof.Machine
end

section
/-! Reading at the send cursor (20_memory.md R40, R42): TXREADY faults where the cursor names no cell, and nowhere else. -/

namespace Sys2Proof.Machine

theorem withCursorByte_of_lt {s : State} (h : s.tx.cursor.toNat < 16) (f : Byte → Transmitter × Byte) :
    ∃ t, withCursorByte s f = .next t := by
  simp [withCursorByte, State.cursorByte_of_lt h]

theorem withCursorByte_of_ge {s : State} (h : 16 ≤ s.tx.cursor.toNat) (f : Byte → Transmitter × Byte) :
    withCursorByte s f = .fault (.noSuchCell .txBuf s.tx.cursor.toNat) := by
  simp [withCursorByte, State.cursorByte_of_ge h]

/-- In `Payload` and `Escaped` an unmasked TXREADY reads the byte at the cursor (R135, R136). -/
theorem execTxready_eq_withCursorByte {s : State} (hirq : s.tx.irqEn = true)
    (hs : s.tx.state = .payload ∨ s.tx.state = .escaped) : ∃ f, execTxready s = withCursorByte s f := by
  rcases hs with hs | hs
  · exact ⟨fun b => txPayloadStep b s.tx, by simp [execTxready, hirq, hs]⟩
  · exact ⟨fun b => txEscapedStep b s.tx, by simp [execTxready, hirq, hs]⟩

theorem execTxready_of_masked {s : State} (h : s.tx.irqEn = false) : execTxready s = .next s.quiet := by
  simp [execTxready, h]

/-- TXREADY completes where every cursor that it would read at names a cell. -/
theorem execTxready_completes {s : State}
    (hcursor : s.tx.state = .payload ∨ s.tx.state = .escaped → s.tx.cursor.toNat < 16) :
    ∃ t, execTxready s = .next t := by
  by_cases hirq : s.tx.irqEn = true
  · by_cases hreads : s.tx.state = .payload ∨ s.tx.state = .escaped
    · obtain ⟨f, hf⟩ := execTxready_eq_withCursorByte hirq hreads
      rw [hf]
      exact withCursorByte_of_lt (hcursor hreads) f
    · cases hs : s.tx.state with
      | start | endMark | done => simp [execTxready, hirq, hs]
      | payload | escaped => simp [hs] at hreads
  · exact ⟨_, execTxready_of_masked (Bool.eq_false_iff.2 hirq)⟩

/-- Under the transmitter's invariant a cursor that is read at names a cell (R25 (b)). -/
theorem Transmitter.inv.cursor_lt {t : Transmitter} (h : t.inv) (hs : t.state = .payload ∨ t.state = .escaped) :
    t.cursor.toNat < 16 := by
  obtain ⟨hlen, hpayload, hescaped, _⟩ := h
  have hlt : t.cursor.toNat < t.len.toNat := hs.elim hpayload hescaped
  omega

/-- Settles O41: where TXREADY reads, the cursor alone decides between a fault and the next state. -/
theorem txreadyFaultsOnlyOutsideInvariant : Obligations.TxreadyFaultsOnlyOutsideInvariant := by
  refine fun s => ⟨fun hirq hreads hcursor => ?_, fun hinv => execTxready_completes hinv.cursor_lt⟩
  obtain ⟨f, hf⟩ := execTxready_eq_withCursorByte hirq hreads
  exact hf.trans (withCursorByte_of_ge hcursor f)

end Sys2Proof.Machine
end

section
/-! The receiver's invariant (10_state.md R25 (a), (e)): each receiver operation keeps it. -/

namespace Sys2Proof.Machine

/-- Outside `ReadingPayload` the latch is free, so the invariant is about the length and the buffer alone. -/
theorem Receiver.inv.outside_payload {r r' : Receiver} (h : r.inv) (hlen : r'.len = r.len) (hbuf : r'.buf = r.buf)
    (hs : r'.state ≠ .readingPayload) : r'.inv := by
  obtain ⟨hle, _, hwf⟩ := h
  exact ⟨hlen ▸ hle, fun hp => absurd hp hs, hbuf ▸ hwf⟩

/-- The address filter enters `ReadingPayload` only with the latch clear (R107). -/
theorem rxAddress_inv {r : Receiver} (addr d : Byte) (h : r.inv) : (rxAddress addr d r).1.inv := by
  rcases rxAddress_cases addr d r with ⟨_, hready, he⟩ | ⟨_, _, he⟩ | ⟨_, he⟩ <;> rw [he]
  · obtain ⟨_, _, hwf⟩ := h
    exact ⟨Nat.zero_le _, fun _ => hready, hwf⟩
  · exact h.outside_payload rfl rfl nofun
  · exact h.outside_payload rfl rfl nofun

/-- A payload byte is stored below index 16, and the length then counts it (R108). -/
theorem rxAppend_inv {r : Receiver} (d : Byte) (h : r.inv) : (rxAppend d r).1.inv := by
  rcases rxAppend_cases d r with ⟨hlt, he⟩ | ⟨_, he⟩ <;> rw [he]
  · obtain ⟨_, hready, hwf⟩ := h
    have hlen : (r.len + 1).toNat ≤ 16 := by
      rw [BitVec.toNat_add]
      exact (Nat.mod_le _ _).trans hlt
    exact ⟨hlen, hready, Memory.wf_write d hwf hlt⟩
  · exact h.outside_payload rfl rfl nofun

/-- No part of the invariant speaks of the escape flag. -/
theorem rxDataByte_inv {r : Receiver} (addr c : Byte) (h : r.inv) : (rxDataByte addr c r).1.inv := by
  have hclear : r.clearEsc.inv := h
  cases hs : r.state with
  | readingAddress => simpa only [rxDataByte, hs] using rxAddress_inv addr _ hclear
  | readingPayload => simpa only [rxDataByte, hs] using rxAppend_inv _ hclear
  | skippingPayload | skippingReply | idle => simpa only [rxDataByte, hs] using hclear

theorem rxStrayEnd_inv {r : Receiver} (stray : StrayEnd) (addr c : Byte) (h : r.inv) :
    (rxStrayEnd stray addr c r).1.inv := by
  cases stray with
  | toIdle => exact h.outside_payload rfl rfl nofun
  | asData => exact rxDataByte_inv addr c h

/-- FRAME_END sets the latch as it leaves `ReadingPayload` (R103). -/
theorem rxFrameEnd_inv {r : Receiver} (stray : StrayEnd) (addr : Byte) (h : r.inv) :
    (rxFrameEnd stray addr r).1.inv := by
  cases hs : r.state with
  | readingPayload =>
    simp only [rxFrameEnd, hs]
    split
    · exact h.outside_payload rfl rfl nofun
    · exact h.outside_payload rfl rfl nofun
  | skippingPayload =>
    simp only [rxFrameEnd, hs]
    exact h.outside_payload rfl rfl nofun
  | idle | readingAddress | skippingReply =>
    simpa only [rxFrameEnd, hs] using rxStrayEnd_inv stray addr frameEnd h

theorem rxReplyEnd_inv {r : Receiver} (stray : StrayEnd) (addr : Byte) (h : r.inv) :
    (rxReplyEnd stray addr r).1.inv := by
  cases hs : r.state with
  | skippingReply =>
    simp only [rxReplyEnd, hs]
    exact h.outside_payload rfl rfl nofun
  | idle | readingAddress | readingPayload | skippingPayload =>
    simpa only [rxReplyEnd, hs] using rxStrayEnd_inv stray addr replyEnd h

theorem rxFrameStart_inv {r : Receiver} (h : r.inv) : (rxFrameStart r).1.inv := h.outside_payload rfl rfl nofun

theorem rxReplyStart_inv {r : Receiver} (h : r.inv) : (rxReplyStart r).1.inv := h.outside_payload rfl rfl nofun

theorem rxEscape_inv {r : Receiver} (h : r.inv) : (rxEscape r).1.inv := h

/-- A received byte of whatever class keeps the receiver's invariant (R100). -/
theorem rxSymbol_inv {r : Receiver} (stray : StrayEnd) (addr c : Byte) (h : r.inv) :
    (rxSymbol stray addr c r).1.inv := by
  unfold rxSymbol
  cases classify c with
  | frameStart => exact rxFrameStart_inv h
  | replyStart => exact rxReplyStart_inv h
  | frameEnd => exact rxFrameEnd_inv stray addr h
  | replyEnd => exact rxReplyEnd_inv stray addr h
  | escape => exact rxEscape_inv h
  | data => exact rxDataByte_inv addr c h

/-- RXACK clears the latch, which `ReadingPayload` asks for (R114). -/
theorem Receiver.inv.clearReady {r : Receiver} (h : r.inv) : r.clearReady.inv := by
  obtain ⟨hle, _, hwf⟩ := h
  exact ⟨hle, fun _ => rfl, hwf⟩

end Sys2Proof.Machine
end

section
/-! The transmitter's invariant (10_state.md R25 (b)): each transmitter operation keeps it. -/

namespace Sys2Proof.Machine

/-- Where the cursor stands in each state: within the payload while a byte of it is to be sent, at its end once all are
(R25 (b)). -/
def TxState.cursorOk (cursor len : BitVec 5) : TxState → Prop
  | .start => True
  | .payload | .escaped => cursor.toNat < len.toNat
  | .endMark | .done => cursor = len

/-- The invariant with its four clauses about the cursor as one, by the state. -/
theorem Transmitter.inv_iff (t : Transmitter) :
    t.inv ↔ t.len.toNat ≤ 16 ∧ t.state.cursorOk t.cursor t.len ∧ Memory.wf t.buf = true := by
  cases hs : t.state <;> simp [Transmitter.inv, TxState.cursorOk, hs]

/-- A step within one transmission keeps the length and the buffer, so only the cursor's place is to be shown. -/
theorem Transmitter.inv.of_cursorOk {t t' : Transmitter} (h : t.inv) (hlen : t'.len = t.len) (hbuf : t'.buf = t.buf)
    (hcursor : t'.state.cursorOk t'.cursor t.len) : t'.inv := by
  obtain ⟨hle, _, hwf⟩ := t.inv_iff.1 h
  rw [Transmitter.inv_iff, hlen, hbuf]
  exact ⟨hle, hcursor, hwf⟩

theorem Transmitter.inv.cursorOk {t : Transmitter} {st : TxState} (h : t.inv) (hs : t.state = st) :
    st.cursorOk t.cursor t.len := by
  obtain ⟨_, hcursor, _⟩ := t.inv_iff.1 h
  exact hs ▸ hcursor

/-- The start of a transmission: the cursor is at the first byte, or at the end of an empty payload (R134). -/
theorem txStartStep_inv {t : Transmitter} (h : t.inv) : (txStartStep t).inv := by
  refine h.of_cursorOk rfl rfl ?_
  simp only [txStartStep, Transmitter.setDrv_len]
  split
  case isTrue h0 => exact h0.symm
  case isFalse h0 =>
    have hpos : 0 < t.len.toNat := by bv_omega
    exact hpos

/-- From a cursor within the payload, `advance` ends within it or, in `End`, right after it. -/
theorem Transmitter.inv.advance {t : Transmitter} (h : t.inv) (hcursor : t.cursor.toNat < t.len.toNat) :
    t.advance.inv := by
  refine h.of_cursorOk rfl rfl ?_
  rw [Transmitter.advance_state, Transmitter.advance_cursor]
  split
  case isTrue hend => exact hend
  case isFalse hend =>
    have hlt : (t.cursor + 1).toNat < t.len.toNat := by bv_omega
    exact hlt

/-- A byte in `Payload` is sent or announced by an ESCAPE; the cursor moves in the first case only (R135). -/
theorem txPayloadStep_inv {t : Transmitter} (b : Byte) (h : t.inv) (hs : t.state = .payload) :
    (txPayloadStep b t).1.inv := by
  have hcursor := h.cursorOk hs
  unfold txPayloadStep
  split
  · exact h.of_cursorOk rfl rfl hcursor
  · exact h.advance hcursor

/-- TXREADY keeps the transmitter's invariant in every state (R133 to R138). -/
theorem execTxready_inv {s t : State} (h : execTxready s = .next t) (hinv : s.tx.inv) : t.tx.inv := by
  rcases execTxready_next_cases h with ⟨_, rfl⟩ | ⟨_, _, rfl⟩ | ⟨_, hs, _, rfl⟩ | ⟨_, hs, _, rfl⟩ | ⟨_, hs, rfl⟩ |
    ⟨_, _, rfl⟩
  case inl => exact hinv
  case inr.inl => exact txStartStep_inv hinv
  case inr.inr.inl => exact txPayloadStep_inv _ hinv hs
  case inr.inr.inr.inl => exact hinv.advance (hinv.cursorOk hs)
  case inr.inr.inr.inr.inl =>
    have hcursor := hinv.cursorOk hs
    exact hinv.of_cursorOk rfl rfl hcursor
  case inr.inr.inr.inr.inr => exact hinv

/-- TXCOMPLETE writes the driver enable alone, of which the invariant does not speak (R139). -/
theorem execTxcomplete_inv {s t : State} (h : execTxcomplete s = .next t) (hinv : s.tx.inv) : t.tx.inv := by
  obtain rfl := Host.Outcome.next.inj h
  rw [State.txDone_tx]
  split
  · exact hinv
  · exact hinv

/-- TXW goes on in `Done` only, with one cell written (R131). -/
theorem execTxw_eq_next {idx : BitVec 4} {b : Byte} {s t : State} (h : execTxw idx b s = .next t) :
    s.tx.state = .done ∧ t = s.txDone { s.tx with buf := Memory.write s.tx.buf idx.toNat b } none := by
  cases hbusy : s.tx.busy with
  | false =>
    simp only [execTxw, hbusy] at h
    exact ⟨s.tx.busy_eq_false_iff.1 hbusy, (Host.Outcome.next.inj h).symm⟩
  | true => simp [execTxw, hbusy] at h

/-- TXSTART goes on in `Done` and up to 16 bytes only (R132). -/
theorem execTxstart_eq_next {len : BitVec 5} {s t : State} (h : execTxstart len s = .next t) :
    s.tx.state = .done ∧ len.toNat ≤ 16 ∧
      t = s.txDone { s.tx.setIrq with len := len, cursor := 0, state := .start } none := by
  unfold execTxstart at h
  split_ifs at h with hbusy hlong
  exact ⟨s.tx.busy_eq_false_iff.1 (Bool.eq_false_iff.2 hbusy), Nat.le_of_not_gt hlong, (Host.Outcome.next.inj h).symm⟩

/-- The index of TXW has four bits, so it names a cell (R131). -/
theorem execTxw_inv {idx : BitVec 4} {b : Byte} {s t : State} (h : execTxw idx b s = .next t) (hinv : s.tx.inv) :
    t.tx.inv := by
  obtain ⟨_, rfl⟩ := execTxw_eq_next h
  rw [Transmitter.inv_iff] at hinv ⊢
  obtain ⟨hlen, hcursor, hwf⟩ := hinv
  exact ⟨hlen, hcursor, Memory.wf_write b hwf idx.isLt⟩

theorem execTxstart_inv {len : BitVec 5} {s t : State} (h : execTxstart len s = .next t) (hinv : s.tx.inv) :
    t.tx.inv := by
  obtain ⟨_, hlen, rfl⟩ := execTxstart_eq_next h
  obtain ⟨_, _, hwf⟩ := s.tx.inv_iff.1 hinv
  exact (Transmitter.inv_iff _).2 ⟨hlen, trivial, hwf⟩

end Sys2Proof.Machine
end

section
/-! The motion group's invariant (10_state.md R11, R25 (d)): each motion operation keeps it under a well-formed configuration,
without which there is no next state (00_scope.md R7). -/

namespace Sys2Proof.Machine

/-- Both limits, and the position that ZERO assumes, are within 0..32767 (R7). -/
theorem State.limits_le {s : State} (h : s.configOk = true) :
    s.node.minpos.toNat ≤ 32767 ∧ s.node.maxpos.toNat + s.params.overrunMargin ≤ 32767 := by
  obtain ⟨horder, hmax⟩ := s.configOk_iff.1 h
  omega

/-- The end of homing enters `On`, with the lower limit as the target (R156). -/
theorem endHoming_inv {p : Params} {m : Motion} {minpos : BitVec 16} (hmin : minpos.toNat ≤ 32767) (h : m.inv p) :
    (endHoming minpos m).inv p := by
  rcases endHoming_cases minpos m with ⟨_, _, he⟩ | ⟨_, he⟩ <;> rw [he]
  · obtain ⟨hpos, _, hphase, _, _⟩ := h
    exact ⟨hpos, hmin, hphase, nofun, nofun⟩
  · exact h

/-- A tick ends between the position and the target, so beyond neither (R160). -/
theorem tickMove_position_le (p : Params) (m : Motion) :
    (tickMove p m).position.toNat ≤ max m.position.toNat m.target.toNat := by
  have hd := distanceToGo_eq m
  have hm := movedBy_le_distanceToGo p m
  rw [tickMove_position_toNat]
  split <;> omega

/-- At the target a tick does not move (R160). -/
theorem tickMove_position_of_at_target {p : Params} {m : Motion} (h : m.target = m.position) :
    (tickMove p m).position = m.position := by
  have hd := distanceToGo_eq m
  have hm := movedBy_le_distanceToGo p m
  apply BitVec.eq_of_toNat_eq
  rw [tickMove_position_toNat]
  rw [h] at hd ⊢
  split <;> omega

theorem tickMove_inv {p : Params} {m : Motion} (h : m.inv p) : (tickMove p m).inv p := by
  obtain ⟨hpos, htarget, _, hoff, hzero⟩ := h
  have hle := tickMove_position_le p m
  refine ⟨by omega, htarget, (phaseAdvance_toNat p m.phase _).2, fun hs => ?_, hzero⟩
  obtain ⟨hrest, hcoil⟩ := hoff hs
  exact ⟨hrest.trans (tickMove_position_of_at_target hrest).symm, hcoil⟩

/-- In `Off` the coils are off after every tick (R162). -/
theorem driveCoils_inv {p : Params} {m : Motion} (h : m.inv p) : (driveCoils p m).inv p := by
  obtain ⟨hpos, htarget, hphase, hoff, hzero⟩ := h
  exact ⟨hpos, htarget, hphase, fun hs => ⟨(hoff hs).1, if_pos hs⟩, hzero⟩

/-- TICK keeps the invariant in each of its sub-steps (R155). -/
theorem tickMotion_inv {p : Params} {m : Motion} {minpos : BitVec 16} (hmin : minpos.toNat ≤ 32767) (h : m.inv p) :
    (tickMotion p minpos m).inv p :=
  driveCoils_inv (tickMove_inv (endHoming_inv hmin h))

theorem execTick_inv {s t : State} (h : execTick s = .next t) (hinv : s.mot.inv s.params) : t.mot.inv t.params := by
  obtain ⟨hok, rfl⟩ := ifConfigOk_eq_next.1 h
  exact tickMotion_inv (State.limits_le hok).1 hinv

/-- GOTO enters `On` with a target within the limits, or is without effect in `Zeroing` (R151). -/
theorem execGoto_inv {dest : BitVec 16} {s t : State} (h : execGoto dest s = .next t) (hinv : s.mot.inv s.params) :
    t.mot.inv t.params := by
  obtain ⟨hok, rfl⟩ := ifConfigOk_eq_next.1 h
  simp only [State.motDone_mot, State.motDone_params]
  split
  · exact hinv
  · obtain ⟨hpos, _, hphase, _, _⟩ := hinv
    have htarget : (clampPosition dest s.node.minpos s.node.maxpos).toNat ≤ 32767 := by
      have hlimits := State.limits_le hok
      rw [clampPosition_toNat]
      omega
    exact ⟨hpos, htarget, hphase, nofun, nofun⟩

/-- ZERO assumes the position at the far end of the overrun margin and homes to 0 (R152). -/
theorem execZero_inv {s t : State} (h : execZero s = .next t) (hinv : s.mot.inv s.params) : t.mot.inv t.params := by
  obtain ⟨hok, rfl⟩ := ifConfigOk_eq_next.1 h
  obtain ⟨_, _, hphase, _, _⟩ := hinv
  have hpos : (BitVec.ofNat 16 (s.node.maxpos.toNat + s.params.overrunMargin)).toNat ≤ 32767 := by
    rw [BitVec.toNat_ofNat]
    exact (Nat.mod_le _ _).trans (State.limits_le hok).2
  exact ⟨hpos, Nat.zero_le _, hphase, nofun, fun _ => rfl⟩

/-- OFF stops at the position it is at, with the coils off (R153). -/
theorem execOff_inv {s t : State} (h : execOff s = .next t) (hinv : s.mot.inv s.params) : t.mot.inv t.params := by
  obtain ⟨_, rfl⟩ := ifConfigOk_eq_next.1 h
  obtain ⟨hpos, _, hphase, _, _⟩ := hinv
  exact ⟨hpos, hpos, hphase, fun _ => ⟨rfl, rfl⟩, nofun⟩

end Sys2Proof.Machine
end

section
/-! The invariant of the machine (10_state.md R25): an instruction keeps it in its own group and leaves the other groups alone, and
the inputs beside the words reset the groups or leave all three alone. -/

namespace Sys2Proof.Machine

/-- The receiver's registers meet its invariant after every instruction that completes. -/
theorem exec_rx_inv {i : Instr} {s t : State} (h : exec i s = .next t) (hinv : s.rx.inv) : t.rx.inv := by
  by_cases hgroup : group i = .receiver
  · cases i with
    | rxFs =>
      obtain rfl := Host.Outcome.next.inj h
      exact rxFrameStart_inv hinv
    | rxRs =>
      obtain rfl := Host.Outcome.next.inj h
      exact rxReplyStart_inv hinv
    | rxRe =>
      obtain rfl := Host.Outcome.next.inj h
      exact rxReplyEnd_inv _ _ hinv
    | rxFe =>
      obtain rfl := Host.Outcome.next.inj h
      exact rxFrameEnd_inv _ _ hinv
    | rxEsc =>
      obtain rfl := Host.Outcome.next.inj h
      exact rxEscape_inv hinv
    | rxData c =>
      obtain rfl := Host.Outcome.next.inj h
      exact rxDataByte_inv _ c hinv
    | rxbyte c =>
      obtain rfl := Host.Outcome.next.inj h
      exact rxSymbol_inv _ _ c hinv
    | rxack =>
      obtain rfl := Host.Outcome.next.inj h
      exact hinv.clearReady
    | rxpoll | rxr idx =>
      obtain rfl := Host.Outcome.next.inj h
      exact hinv
    | _ => simp [group] at hgroup
  · obtain ⟨hrx, _⟩ := instructionsTouchOwnGroupOnly i s t h
    exact hrx hgroup ▸ hinv

/-- The transmitter's registers meet its invariant after every instruction that completes. -/
theorem exec_tx_inv {i : Instr} {s t : State} (h : exec i s = .next t) (hinv : s.tx.inv) : t.tx.inv := by
  by_cases hgroup : group i = .transmitter
  · cases i with
    | txready => exact execTxready_inv h hinv
    | txcomplete => exact execTxcomplete_inv h hinv
    | txw idx b => exact execTxw_inv h hinv
    | txstart len => exact execTxstart_inv h hinv
    | txstat =>
      obtain rfl := Host.Outcome.next.inj h
      exact hinv
    | _ => simp [group] at hgroup
  · obtain ⟨_, htx, _⟩ := instructionsTouchOwnGroupOnly i s t h
    exact htx hgroup ▸ hinv

/-- The motion group's registers meet its invariant after every instruction that completes. -/
theorem exec_mot_inv {i : Instr} {s t : State} (h : exec i s = .next t) (hinv : s.mot.inv s.params) :
    t.mot.inv t.params := by
  by_cases hgroup : group i = .motion
  · cases i with
    | tick => exact execTick_inv h hinv
    | goto p => exact execGoto_inv h hinv
    | zero => exact execZero_inv h hinv
    | off => exact execOff_inv h hinv
    | get =>
      obtain ⟨_, rfl⟩ := ifConfigOk_eq_next.1 h
      exact hinv
    | _ => simp [group] at hgroup
  · obtain ⟨_, _, hmot, hparams, _⟩ := instructionsTouchOwnGroupOnly i s t h
    rw [hmot hgroup, hparams]
    exact hinv

/-- Every instruction that completes keeps the invariant, group by group. -/
theorem exec_inv {i : Instr} {s t : State} (h : exec i s = .next t) (hinv : s.inv) : t.inv := by
  obtain ⟨hrx, htx, hmot⟩ := hinv
  exact ⟨exec_rx_inv h hrx, exec_tx_inv h htx, exec_mot_inv h hmot⟩

/-- Settles O11: an idle step and a configuration change keep the three groups, the reset input gives each its reset value, and a
word keeps the invariant as its instruction does. -/
theorem stepKeepsInvariant : Obligations.StepKeepsInvariant := by
  intro s t hinv h
  rcases step_next_cases h with ⟨_, rfl⟩ | ⟨w, rest, _, hexec⟩ | ⟨rest, _, rfl⟩ | ⟨n, rest, _, rfl⟩
  · exact hinv
  · exact exec_inv hexec hinv
  · exact ⟨Receiver.reset_inv, Transmitter.reset_inv, Motion.reset_inv s.params⟩
  · exact hinv

end Sys2Proof.Machine
end

section
/-! The encoding (30_encoding.md R63, R75 to R77): the decoder by format, and what it makes of the encoder's words. -/

namespace Sys2Proof

/-- Settles O3: the operation code selects the arm and each operand is a field of `arg`, where the code stands above. -/
theorem portWordFieldsDecode : Obligations.PortWordFieldsDecode := by
  intro arg
  simp [portWord, decode, decodePort, op_portBits, field_portBits]

/-- A table word of 24 bits whose upper four are 0 is read as the port word of its lower 20 bits (log 15). -/
theorem decodeTableWord_port (pw : PortWord) : decodeTableWord 24 pw.toNat = some (decode (.port pw)) := by
  simp [decodeTableWord, decodeBits, rawOfBits, pw.isLt]

/-- A table word of 8 bits is read as a byte of the wire. -/
theorem decodeTableWord_wire (c : Byte) : decodeTableWord 8 c.toNat = some (decode (.wire c)) := by
  simp [decodeTableWord, decodeBits, rawOfBits, c.isLt]

/-- A class other than RX.DATA has a single byte value, which the encoder writes (R63). -/
theorem encode_decodeWire (c : Byte) : encode (decodeWire c) = .wire c := by
  unfold decodeWire classify
  split_ifs <;> subst_vars <;> rfl

/-- The decoder gives RX.DATA only to a byte of that class. -/
theorem decodeWire_wellFormed (c : Byte) : (decodeWire c).wellFormed = true := by
  unfold decodeWire
  cases hc : classify c with
  | data => exact (classify_eq_data_iff c).1 hc
  | frameStart | replyStart | replyEnd | frameEnd | escape => rfl

/-- The rows of format W cover the 256 bytes without overlap, each under the mnemonic of the byte's class. -/
theorem wireRows_matching_byte : ∀ c : Byte,
    (wireRows.filter (·.matchesWord (.wire c))).map OpcodeRow.mnemonic = [(decodeWire c).mnemonic] := by
  decide

/-- Settles O2: one matching row for each byte, and an instruction that is well-formed and encodes to the byte again. -/
theorem everyByteHasOneSymbolClass : Obligations.EveryByteHasOneSymbolClass := fun c =>
  ⟨wireRows_matching_byte c, encode_decodeWire c, decodeWire_wellFormed c⟩

/-- Settles O4: each table word is the number of a wire byte, or of the port word with the `op` and `arg` written here. -/
theorem sampleWordsDecode : Obligations.SampleWordsDecode :=
  ⟨decodeTableWord_port (0x0#4 ++ 0x00E8#16), decodeTableWord_port (0x5#4 ++ 0x0002#16),
    decodeTableWord_port (0x7#4 ++ 0x0207#16), decodeTableWord_port (0x8#4 ++ 0x0011#16),
    decodeTableWord_port (0xA#4 ++ 0x03E8#16), decodeTableWord_port (0x3#4 ++ 0x0000#16),
    decodeTableWord_port (0xF#4 ++ 0x1234#16), decodeTableWord_wire 0x04, decodeTableWord_wire 0x1B,
    decodeTableWord_wire 0x1C⟩

/-- An operand written to the low bits of `arg` is the field of its width there. -/
theorem field_setWidth {w : Nat} (x : BitVec w) (h : w ≤ 16) : (x.setWidth 16).extractLsb' 0 w = x := by
  rw [BitVec.extractLsb'_setWidth_of_le (by omega), BitVec.extractLsb'_eq_self]

/-- The two operands of TXW stand side by side in `arg` (R76). -/
theorem fields_txw (idx : BitVec 4) (b : Byte) :
    ((idx ++ b).setWidth 16).extractLsb' 8 4 = idx ∧ ((idx ++ b).setWidth 16).extractLsb' 0 8 = b := by
  constructor
  · rw [BitVec.extractLsb'_setWidth_of_le (by decide), BitVec.extractLsb'_append_eq_left]
  · rw [BitVec.extractLsb'_setWidth_of_le (by decide), BitVec.extractLsb'_append_eq_right]

/-- Settles O1: a wire byte has the class it was encoded from, and a port word decodes by O3 to the fields its operands were
written to. -/
theorem decodeEncodeRoundTrip : Obligations.DecodeEncodeRoundTrip := by
  intro i hi
  have fields := portWordFieldsDecode
  unfold Obligations.PortWordFieldsDecode at fields
  cases i with
  | rxFs | rxRs | rxRe | rxFe | rxEsc => rfl
  | rxData c => exact decodeWire_of_isDataByte hi
  | rxbyte x | rxr x | txstart x => simp only [encode, fields, field_setWidth x (by decide)]
  | txw idx b => simp only [encode, fields, fields_txw]
  | goto _ | txready | txcomplete | tick | rxpoll | rxack | txstat | zero | off | get | reservedE | reservedF =>
    simp only [encode, fields]

end Sys2Proof
end

section
/-! The reserved codes of the port word (30_encoding.md R77). -/

namespace Sys2Proof.Machine

/-- Settles O56: the arms of both codes refuse without looking at the state. -/
theorem reservedCodesAreRefused : Obligations.ReservedCodesAreRefused := fun _ => ⟨rfl, rfl⟩

end Sys2Proof.Machine
end

section
/-! The frame codec (40_frame_codec.md R90 to R95): the reference decoder undoes the data encoding, and what an encoded frame is
made of. -/

namespace Sys2Proof.Machine

theorem ne_escape_of_classify_data {c : Byte} (h : classify c = .data) : c ≠ escape := by
  rintro rfl
  exact absurd h (by decide)

theorem decBodyFrom_escape (e : Bool) (w : List Byte) : decBodyFrom e (escape :: w) = decBodyFrom true w := rfl

theorem decBodyFrom_data {c : Byte} (h : classify c = .data) (e : Bool) (w : List Byte) :
    decBodyFrom e (c :: w) = contentByte e c :: decBodyFrom false w :=
  if_neg (ne_escape_of_classify_data h)

/-- The decoder takes the encoding of one content byte off the front and stands with no escape pending again. -/
theorem decBodyFrom_escEnc_append (b : Byte) (w : List Byte) :
    decBodyFrom false (escEnc b ++ w) = b :: decBodyFrom false w := by
  rcases escEnc_cases b with ⟨_, henc, hdata, _⟩ | ⟨_, henc, hdata⟩ <;> rw [henc]
  · calc decBodyFrom false (escape :: (b ^^^ 0x20) :: w)
        = contentByte true (b ^^^ 0x20) :: decBodyFrom false w := by rw [decBodyFrom_escape, decBodyFrom_data hdata]
      _ = b :: decBodyFrom false w := congrArg (· :: _) (escMask_involutive b)
  · exact decBodyFrom_data hdata false w

/-- Settles O31, by induction on the content bytes. -/
theorem escapeEncodingRoundTrip : Obligations.EscapeEncodingRoundTrip := by
  intro l
  induction l with
  | nil => rfl
  | cons b l ih =>
    calc decBodyFrom false (escEnc b ++ escEncAll l) = b :: decBody (escEncAll l) := decBodyFrom_escEnc_append b _
      _ = b :: l := by rw [ih]

theorem escEnc_length (b : Byte) : (escEnc b).length = if b.toNat < 0x20 then 2 else 1 := by
  rcases escEnc_cases b with ⟨hb, henc, _⟩ | ⟨hb, henc, _⟩ <;> rw [henc]
  · rw [if_pos hb]; rfl
  · rw [if_neg (Nat.not_lt.2 hb)]; rfl

theorem escEncAll_length (p : List Byte) :
    (escEncAll p).length = (p.map (fun b => if b.toNat < 0x20 then 2 else 1)).sum := by
  simp only [escEncAll, List.length_flatMap, escEnc_length]

theorem escEnc_length_bounds (b : Byte) : 1 ≤ (escEnc b).length ∧ (escEnc b).length ≤ 2 := by
  rw [escEnc_length]
  split <;> omega

/-- At worst every content byte is sent escaped. -/
theorem escEncAll_length_le (p : List Byte) : (escEncAll p).length ≤ 2 * p.length := by
  induction p with
  | nil => rfl
  | cons b p ih =>
    obtain ⟨_, hb⟩ := escEnc_length_bounds b
    simp only [escEncAll_cons, List.length_append, List.length_cons]
    omega

theorem encRequest_length (a : Byte) (p : List Byte) :
    (encRequest a p).length = 2 + (escEnc a).length + (escEncAll p).length := by
  simp only [encRequest, List.length_append, List.length_singleton]
  omega

theorem encReply_length (p : List Byte) : (encReply p).length = 2 + (escEncAll p).length := by
  simp only [encReply, List.length_append, List.length_singleton]
  omega

/-- No byte of encoded content is a control symbol (R90). -/
theorem mem_escEnc {b c : Byte} (h : c ∈ escEnc b) : c = 0x1B ∨ 0x20 ≤ c.toNat := by
  rcases escEnc_cases b with ⟨_, henc, _, hmasked⟩ | ⟨hb, henc, _⟩ <;> rw [henc] at h
  · rcases List.mem_pair.1 h with rfl | rfl
    · exact .inl rfl
    · exact .inr hmasked
  · obtain rfl := List.mem_singleton.1 h
    exact .inr hb

theorem mem_escEncAll {p : List Byte} {c : Byte} (h : c ∈ escEncAll p) : c = 0x1B ∨ 0x20 ≤ c.toNat := by
  obtain ⟨b, _, hc⟩ := List.mem_flatMap.1 h
  exact mem_escEnc hc

/-- Settles O32: a frame is its two markers around encoded content. -/
theorem encodedFrameLengthAndContent : Obligations.EncodedFrameLengthAndContent := by
  intro a p
  have hbounds : p.length ≤ 16 → 3 ≤ (encRequest a p).length ∧ (encRequest a p).length ≤ 36 ∧
      2 ≤ (encReply p).length ∧ (encReply p).length ≤ 34 := by
    have ha := escEnc_length_bounds a
    have hp := escEncAll_length_le p
    rw [encRequest_length, encReply_length]
    omega
  refine ⟨escEnc_length a, ?_, ?_, hbounds, ⟨escEnc a ++ escEncAll p, ?_, fun b hb => ?_⟩, escEncAll p, rfl,
    fun b hb => mem_escEncAll hb⟩
  · rw [encRequest_length, escEnc_length, escEncAll_length]
  · rw [encReply_length, escEncAll_length]
  · simp [encRequest, frameStart, frameEnd]
  · exact (List.mem_append.1 hb).elim mem_escEnc mem_escEncAll

end Sys2Proof.Machine
end

section
/-! Bytes written to consecutive cells of a byte memory (20_memory.md R40): a received payload, a payload to be sent. -/

namespace Sys2Proof.Machine

/-- The bytes `p` written to consecutive cells from index `i` on. -/
def Memory.writeFrom (m : Memory) (i : Nat) : List Byte → Memory
  | [] => m
  | b :: p => Memory.writeFrom (Memory.write m i b) (i + 1) p

theorem cellValue_writeFrom_below (sp : BufferSpace) (k : Nat) {m : Memory} {i j : Nat} (h : j < i) (p : List Byte) :
    cellValue sp k (Memory.writeFrom m i p) j = cellValue sp k m j := by
  induction p generalizing m i with
  | nil => rfl
  | cons b p ih =>
    calc cellValue sp k (Memory.writeFrom (Memory.write m i b) (i + 1) p) j
        = cellValue sp k (Memory.write m i b) j := ih (Nat.lt_succ_of_lt h)
      _ = cellValue sp k m j := cellValue_write_other sp k m i j b (Nat.ne_of_lt h)

/-- The cells written hold the bytes in order. -/
theorem cellValue_writeFrom (sp : BufferSpace) (k : Nat) {m : Memory} {i j : Nat} {p : List Byte} {b : Byte}
    (h : p[j]? = some b) : cellValue sp k (Memory.writeFrom m i p) (i + j) = b := by
  induction p generalizing m i j with
  | nil => simp at h
  | cons c p ih =>
    cases j with
    | zero =>
      obtain rfl : c = b := by simpa using h
      calc cellValue sp k (Memory.writeFrom (Memory.write m i c) (i + 1) p) i
          = cellValue sp k (Memory.write m i c) i := cellValue_writeFrom_below sp k (Nat.lt_succ_self i) p
        _ = c := cellValue_write_same sp k m i c
    | succ j =>
      rw [Memory.writeFrom, ← Nat.add_assoc, Nat.add_right_comm]
      exact ih (by simpa using h)

end Sys2Proof.Machine
end

section
/-! Received frames (40_frame_codec.md R96): what a whole encoded frame does, as one function on the receiver's registers. -/

namespace Sys2Proof.Machine

/-- The receiver's registers after the bytes `bs`, taken in one RXBYTE each (R100). -/
def receiveBytes (stray : StrayEnd) (addr : Byte) (bs : List Byte) (r : Receiver) : Receiver :=
  bs.foldl (fun r c => (rxSymbol stray addr c r).1) r

/-- A run of RXBYTE operations completes, emits nothing, and is `receiveBytes` on the receiver alone. -/
theorem runOps_rxbyte (bs : List Byte) (s : State) :
    ∃ t, runOps (bs.map Instr.rxbyte) s = some ([], t) ∧
      t.rx = receiveBytes s.params.strayEnd s.node.nodeAddr bs s.rx ∧ t.tx = s.tx ∧ t.mot = s.mot := by
  induction bs generalizing s with
  | nil => exact ⟨s, rfl, rfl, rfl, rfl⟩
  | cons c bs ih =>
    obtain ⟨t, hrun, hregs⟩ := ih (s.rxDone (rxSymbol s.params.strayEnd s.node.nodeAddr c s.rx))
    have hstep : exec (.rxbyte c) s = .next (s.rxDone (rxSymbol s.params.strayEnd s.node.nodeAddr c s.rx)) := rfl
    exact ⟨t, by rw [List.map_cons, runOps_cons_of_silent hstep rfl, hrun], hregs⟩

section
variable {stray : StrayEnd} {addr : Byte} {r : Receiver}

theorem receiveBytes_append (l k : List Byte) :
    receiveBytes stray addr (l ++ k) r = receiveBytes stray addr k (receiveBytes stray addr l r) :=
  List.foldl_append

theorem receiveBytes_frameStart :
    receiveBytes stray addr [frameStart] r = { r with state := .readingAddress, esc := false } := rfl

theorem receiveBytes_replyStart :
    receiveBytes stray addr [replyStart] r = { r with state := .skippingReply, esc := false } := rfl

theorem Receiver.clearEsc_of_esc_false (h : r.esc = false) : r.clearEsc = r := by
  cases r
  cases h
  rfl

/-- With no escape pending, the encoding of one content byte acts as the data byte itself (R105, R106). -/
theorem receiveBytes_escEnc (h : r.esc = false) (b : Byte) :
    receiveBytes stray addr (escEnc b) r = (rxDataByte addr b r).1 := by
  rcases escEnc_cases b with ⟨_, henc, hdata, _⟩ | ⟨_, henc, hdata⟩ <;> rw [henc]
  · calc receiveBytes stray addr [0x1B, b ^^^ 0x20] r
        = (rxSymbol stray addr (b ^^^ 0x20) (rxEscape r).1).1 := rfl
      _ = (rxDataByte addr b r.clearEsc).1 := rxSymbol_escaped hdata
      _ = (rxDataByte addr b r).1 := by rw [Receiver.clearEsc_of_esc_false h]
  · simp [receiveBytes, rxSymbol, hdata]

/-- Content is skipped in the two skipping states (R109). -/
theorem receiveBytes_escEncAll_skipping (hs : r.state = .skippingPayload ∨ r.state = .skippingReply) (he : r.esc = false)
    (p : List Byte) : receiveBytes stray addr (escEncAll p) r = r := by
  induction p with
  | nil => rfl
  | cons b p ih =>
    have hbyte : (rxDataByte addr b r).1 = r := by
      rcases hs with hs | hs <;> simp [rxDataByte, hs, Receiver.clearEsc_of_esc_false he]
    rw [escEncAll_cons, receiveBytes_append, receiveBytes_escEnc he, hbyte, ih]

/-- A content byte that fits is appended (R108). -/
theorem rxDataByte_appends (hs : r.state = .readingPayload) (he : r.esc = false) (hlen : r.len.toNat < 16) (b : Byte) :
    (rxDataByte addr b r).1 = { r with len := r.len + 1, buf := Memory.write r.buf r.len.toNat b } := by
  simp [rxDataByte, hs, he, contentByte, Receiver.clearEsc_of_esc_false he, rxAppend, maxPayload, hlen]

/-- Content that fits is stored in order behind what is there. -/
theorem receiveBytes_escEncAll_reading {p : List Byte} (hs : r.state = .readingPayload) (he : r.esc = false)
    (hlen : r.len.toNat + p.length ≤ 16) :
    receiveBytes stray addr (escEncAll p) r =
      { r with len := r.len + BitVec.ofNat 5 p.length, buf := Memory.writeFrom r.buf r.len.toNat p } := by
  induction p generalizing r with
  | nil => simp [receiveBytes, Memory.writeFrom]
  | cons b p ih =>
    rw [List.length_cons] at hlen
    have hnext : (r.len + 1).toNat = r.len.toNat + 1 := by bv_omega
    have hcount : r.len + 1 + BitVec.ofNat 5 p.length = r.len + BitVec.ofNat 5 (p.length + 1) := by
      rw [BitVec.ofNat_add, BitVec.add_assoc, BitVec.add_comm 1]
      rfl
    have hrest := ih (r := { r with len := r.len + 1, buf := Memory.write r.buf r.len.toNat b }) hs he
      (by simp only [hnext]; omega)
    rw [escEncAll_cons, receiveBytes_append, receiveBytes_escEnc he, rxDataByte_appends hs he (by omega), hrest]
    simp only [hnext, hcount, Memory.writeFrom, List.length_cons]

/-- A request is its start marker, the address filter on `a`, the content, and its end marker (R91). -/
theorem receiveBytes_encRequest (a : Byte) (p : List Byte) :
    receiveBytes stray addr (encRequest a p) r =
      (rxFrameEnd stray addr (receiveBytes stray addr (escEncAll p)
        (rxAddress addr a { r with state := .readingAddress, esc := false }).1)).1 := by
  have haddress : receiveBytes stray addr (escEnc a) { r with state := .readingAddress, esc := false } =
      (rxAddress addr a { r with state := .readingAddress, esc := false }).1 := receiveBytes_escEnc rfl a
  rw [encRequest, receiveBytes_append, receiveBytes_append, receiveBytes_append, receiveBytes_frameStart, haddress]
  rfl

/-- A request to this node with the latch clear is stored from cell 0 on and delivered (R107, R108, R103). -/
theorem receiveBytes_encRequest_delivers {p : List Byte} (hready : r.ready = false) (hlen : p.length ≤ 16) :
    receiveBytes stray addr (encRequest addr p) r =
      ⟨.idle, false, BitVec.ofNat 5 p.length, true, Memory.writeFrom r.buf 0 p⟩ := by
  have haddress : (rxAddress addr addr { r with state := .readingAddress, esc := false }).1 =
      ⟨.readingPayload, false, 0, false, r.buf⟩ := by
    simp [rxAddress, hready]
  rw [receiveBytes_encRequest, haddress, receiveBytes_escEncAll_reading rfl rfl (by simpa using hlen)]
  simp [rxFrameEnd, Receiver.setReady, Receiver.clearEsc]

/-- A request the address filter rejects ends framing and stores nothing (R107, R109, R103). -/
theorem receiveBytes_encRequest_skipped {a : Byte} (h : a ≠ addr ∨ r.ready = true) (p : List Byte) :
    receiveBytes stray addr (encRequest a p) r = { r with state := .idle, esc := false } := by
  have haddress : (rxAddress addr a { r with state := .readingAddress, esc := false }).1 =
      { r with state := .skippingPayload, esc := false } := by
    rcases h with h | h <;> simp [rxAddress, h]
  rw [receiveBytes_encRequest, haddress, receiveBytes_escEncAll_skipping (.inl rfl) rfl]
  rfl

/-- A reply ends framing and stores nothing (R102, R109, R104). -/
theorem receiveBytes_encReply (p : List Byte) :
    receiveBytes stray addr (encReply p) r = { r with state := .idle, esc := false } := by
  rw [encReply, receiveBytes_append, receiveBytes_append, receiveBytes_replyStart,
    receiveBytes_escEncAll_skipping (.inr rfl) rfl]
  rfl

end

/-- Settles O28: the receiver ends with the payload in its first cells, whatever it was doing before. -/
theorem requestToThisNodeIsDelivered : Obligations.RequestToThisNodeIsDelivered := by
  intro s p hlen hready
  obtain ⟨t, hrun, hrx, htx, hmot⟩ := runOps_rxbyte (encRequest s.node.nodeAddr p) s
  rw [receiveBytes_encRequest_delivers hready hlen] at hrx
  have hcount : (BitVec.ofNat 5 p.length).toNat = p.length := Nat.mod_eq_of_lt (by omega)
  refine ⟨t, hrun, by rw [hrx], by rw [hrx], by rw [hrx], by rw [hrx, hcount], fun i b hb => ?_, htx, hmot⟩
  rw [State.rxCell, hrx]
  simpa using cellValue_writeFrom .rxBuf t.resets (m := s.rx.buf) (i := 0) hb

/-- Settles O29: the address filter rejects the request in both cases. -/
theorem otherRequestIsInvisible : Obligations.OtherRequestIsInvisible := by
  intro s a p _ hrejected
  obtain ⟨t, hrun, hrx, hrest⟩ := runOps_rxbyte (encRequest a p) s
  exact ⟨t, hrun, hrx.trans (receiveBytes_encRequest_skipped hrejected p), hrest⟩

/-- Settles O30: STRAY_END plays no part, since the end marker of a reply closes the skipping it started. -/
theorem replyIsInvisible : Obligations.ReplyIsInvisible := by
  intro s p _
  obtain ⟨t, hrun, hrx, hrest⟩ := runOps_rxbyte (encReply p) s
  exact ⟨t, hrun, hrx.trans (receiveBytes_encReply p), hrest⟩

end Sys2Proof.Machine
end

section
/-! A whole transmission (42_link_transmitter.md R140): SEND fills `tx_buf` and starts, then every TXREADY emits the next byte of
the encoded reply. -/

namespace Sys2Proof.Machine

/-- Two runs in a row, the bytes emitted in that order. -/
theorem runOps_append_eq_some {l k : List Instr} {s t u : State} {bs cs : List Byte} (hl : runOps l s = some (bs, t))
    (hk : runOps k t = some (cs, u)) : runOps (l ++ k) s = some (bs ++ cs, u) := by
  rw [runOps_append hl, hk]
  rfl

/-- A run of one operation. -/
theorem runOps_singleton {i : Instr} {s t : State} (h : exec i s = .next t) :
    runOps [i] s = some (t.out.emitted.toList, t) := by
  rw [runOps_cons_of_next h]
  simp

section
variable {s : State}

/-! ## SEND -/

theorem execTxw_of_done (h : s.tx.state = .done) (idx : BitVec 4) (b : Byte) :
    exec (.txw idx b) s = .next (s.txDone { s.tx with buf := Memory.write s.tx.buf idx.toNat b } none) := by
  simp [exec, execTxw, s.tx.busy_eq_false_iff.2 h]

theorem execTxstart_of_done (h : s.tx.state = .done) {len : BitVec 5} (hlen : len.toNat ≤ 16) :
    exec (.txstart len) s = .next (s.txDone { s.tx.setIrq with len := len, cursor := 0, state := .start } none) := by
  simp [exec, execTxstart, s.tx.busy_eq_false_iff.2 h, maxPayload, Nat.not_lt.2 hlen]

/-- The TXW operations of SEND write the payload to consecutive cells and emit nothing. -/
theorem runOps_txwFrom {i : Nat} {p : List Byte} (h : s.tx.state = .done) (hfits : i + p.length ≤ 16) :
    ∃ o, runOps (txwFrom i p) s = some ([], { s with tx.buf := Memory.writeFrom s.tx.buf i p, out := o }) := by
  induction p generalizing i s with
  | nil => exact ⟨s.out, rfl⟩
  | cons b p ih =>
    rw [List.length_cons] at hfits
    have hindex : (BitVec.ofNat 4 i).toNat = i := Nat.mod_eq_of_lt (by omega)
    have hstep := execTxw_of_done h (BitVec.ofNat 4 i) b
    rw [hindex] at hstep
    obtain ⟨o, hrest⟩ := ih (i := i + 1) (s := s.txDone { s.tx with buf := Memory.write s.tx.buf i b } none) h (by omega)
    exact ⟨o, by rw [txwFrom, runOps_cons_of_silent hstep rfl, hrest]; rfl⟩

/-- SEND leaves the transmitter in `Start` with the payload in the first cells (R131, R132). -/
theorem runOps_sendOps {p : List Byte} (h : s.tx.state = .done) (hlen : p.length ≤ 16) :
    runOps (sendOps p) s = some ([], s.txDone
      ⟨.start, true, s.tx.drvEn, BitVec.ofNat 5 p.length, 0, Memory.writeFrom s.tx.buf 0 p⟩ none) := by
  obtain ⟨o, hwrites⟩ := runOps_txwFrom (i := 0) (p := p) h (by omega)
  have hcount : (BitVec.ofNat 5 p.length).toNat ≤ 16 := (Nat.mod_le _ _).trans hlen
  have hstart := runOps_singleton (execTxstart_of_done
    (s := { s with tx.buf := Memory.writeFrom s.tx.buf 0 p, out := o }) h hcount)
  exact runOps_append_eq_some hwrites hstart

/-! ## TXREADY -/

theorem execTxready_of_start (hirq : s.tx.irqEn = true) (hs : s.tx.state = .start) :
    exec .txready s = .next (s.txDone (txStartStep s.tx) (some replyStart)) := by
  simp [exec, execTxready, hirq, hs]

theorem execTxready_of_payload (hirq : s.tx.irqEn = true) (hs : s.tx.state = .payload) (hcursor : s.tx.cursor.toNat < 16) :
    exec .txready s = .next (s.txDone (txPayloadStep (s.txCell s.tx.cursor.toNat) s.tx).1
      (some (txPayloadStep (s.txCell s.tx.cursor.toNat) s.tx).2)) := by
  simp [exec, execTxready, hirq, hs, withCursorByte, State.cursorByte_of_lt hcursor]

theorem execTxready_of_escaped (hirq : s.tx.irqEn = true) (hs : s.tx.state = .escaped) (hcursor : s.tx.cursor.toNat < 16) :
    exec .txready s = .next (s.txDone s.tx.advance (some (s.txCell s.tx.cursor.toNat ^^^ escMask))) := by
  simp [exec, execTxready, hirq, hs, withCursorByte, State.cursorByte_of_lt hcursor, txEscapedStep]

theorem execTxready_of_endMark (hirq : s.tx.irqEn = true) (hs : s.tx.state = .endMark) :
    exec .txready s = .next (s.txDone { s.tx with state := .done } (some replyEnd)) := by
  simp [exec, execTxready, hirq, hs]

theorem execTxready_of_done (hirq : s.tx.irqEn = true) (hs : s.tx.state = .done) :
    exec .txready s = .next (s.txDone s.tx.clearIrq none) := by
  simp [exec, execTxready, hirq, hs]

end

/-! ## One TXREADY per byte -/

/-- One TXREADY per byte of `bs` emits exactly `bs`. -/
def Emits (bs : List Byte) (s t : State) : Prop := runOps (List.replicate bs.length .txready) s = some (bs, t)

theorem Emits.nil (s : State) : Emits [] s s := rfl

theorem Emits.append {bs cs : List Byte} {s t u : State} (hl : Emits bs s t) (hk : Emits cs t u) :
    Emits (bs ++ cs) s u := by
  rw [Emits, List.length_append, List.replicate_add]
  exact runOps_append_eq_some hl hk

theorem emits_singleton {s : State} {t : Transmitter} {b : Byte} (h : exec .txready s = .next (s.txDone t (some b))) :
    Emits [b] s (s.txDone t (some b)) :=
  runOps_singleton h

section
variable {s : State}

theorem txPayloadStep_of_lt {b : Byte} (h : b.toNat < 32) (t : Transmitter) :
    txPayloadStep b t = ({ t with state := .escaped }, escape) := if_pos h

theorem txPayloadStep_of_ge {b : Byte} (h : 32 ≤ b.toNat) (t : Transmitter) : txPayloadStep b t = (t.advance, b) :=
  if_neg (Nat.not_lt.2 h)

/-- In `Payload` the encoding of the byte at the cursor is emitted and the cursor moves past it (R135, R136). -/
theorem emits_escEnc (hirq : s.tx.irqEn = true) (hs : s.tx.state = .payload) (hcursor : s.tx.cursor.toNat < 16) {b : Byte}
    (hb : s.txCell s.tx.cursor.toNat = b) : ∃ e, Emits (escEnc b) s (s.txDone s.tx.advance e) := by
  subst hb
  have hfirst := execTxready_of_payload hirq hs hcursor
  rcases escEnc_cases (s.txCell s.tx.cursor.toNat) with ⟨hlow, henc, _⟩ | ⟨hhigh, henc, _⟩ <;> rw [henc]
  · rw [txPayloadStep_of_lt hlow] at hfirst
    have hsecond := execTxready_of_escaped (s := s.txDone { s.tx with state := .escaped } (some escape)) hirq rfl hcursor
    exact ⟨_, (emits_singleton hfirst).append (emits_singleton hsecond)⟩
  · rw [txPayloadStep_of_ge hhigh] at hfirst
    exact ⟨_, emits_singleton hfirst⟩

/-- From the cursor on, the encoding of the payload's rest `q` is emitted, which ends in `End`. -/
theorem emits_escEncAll {q : List Byte} (hirq : s.tx.irqEn = true)
    (hs : s.tx.state = if s.tx.cursor = s.tx.len then .endMark else .payload)
    (hlen : s.tx.cursor.toNat + q.length = s.tx.len.toNat) (hmax : s.tx.len.toNat ≤ 16)
    (hcells : ∀ j b, q[j]? = some b → s.txCell (s.tx.cursor.toNat + j) = b) :
    ∃ o, Emits (escEncAll q) s { s with tx.cursor := s.tx.len, tx.state := .endMark, out := o } := by
  induction q generalizing s with
  | nil =>
    have hcursor : s.tx.cursor = s.tx.len := BitVec.eq_of_toNat_eq hlen
    rw [if_pos hcursor] at hs
    rw [← hcursor, ← hs]
    exact ⟨s.out, Emits.nil s⟩
  | cons b q ih =>
    rw [List.length_cons] at hlen
    have hpayload : s.tx.state = .payload := by
      rw [hs, if_neg]
      intro hcursor
      rw [hcursor] at hlen
      omega
    have hnext : (s.tx.cursor + 1).toNat = s.tx.cursor.toNat + 1 := by bv_omega
    obtain ⟨e, hbyte⟩ := emits_escEnc hirq hpayload (by omega) (hcells 0 b rfl)
    have hcells' : ∀ j c, q[j]? = some c → s.txCell ((s.tx.cursor + 1).toNat + j) = c := fun j c hc => by
      rw [hnext, Nat.add_assoc, Nat.add_comm 1]
      exact hcells (j + 1) c hc
    obtain ⟨o, hrest⟩ := ih (s := s.txDone s.tx.advance e) hirq rfl
      (by simp only [State.txDone_tx, Transmitter.advance_cursor, Transmitter.advance_len]; omega) hmax hcells'
    exact ⟨o, hbyte.append hrest⟩

/-- From `Start` with the payload `p` in the buffer, the whole encoded reply is emitted (R134 to R137). -/
theorem emits_encReply {p : List Byte} (hirq : s.tx.irqEn = true) (hs : s.tx.state = .start)
    (hlen : s.tx.len.toNat = p.length) (hmax : p.length ≤ 16) (hcells : ∀ j b, p[j]? = some b → s.txCell j = b) :
    Emits (encReply p) s (s.txDone { s.tx with state := .done, drvEn := true, cursor := s.tx.len } (some replyEnd)) := by
  have hstart := execTxready_of_start hirq hs
  have hfirst : (txStartStep s.tx).state = if (0 : BitVec 5) = s.tx.len then .endMark else .payload :=
    if_congr eq_comm rfl rfl
  obtain ⟨o, hcontent⟩ := emits_escEncAll (s := s.txDone (txStartStep s.tx) (some replyStart)) (q := p) hirq hfirst
    (by simp [txStartStep, hlen]) (hlen.trans_le hmax) fun j b hb => by
      simpa [txStartStep, State.txCell] using hcells j b hb
  have hend := execTxready_of_endMark (s := { s.txDone (txStartStep s.tx) (some replyStart) with
    tx.cursor := s.tx.len, tx.state := .endMark, out := o }) hirq rfl
  exact ((emits_singleton hstart).append hcontent).append (emits_singleton hend)

end

/-- Settles O43: SEND, then the encoded reply, then two TXREADY in `Done`, of which the first masks the second. -/
theorem transmissionEmitsEncodedReply : Obligations.TransmissionEmitsEncodedReply := by
  intro s p hmax hdone
  have hcount : (BitVec.ofNat 5 p.length).toNat = p.length := Nat.mod_eq_of_lt (by omega)
  have hsend := runOps_sendOps hdone hmax
  have hreply := emits_encReply (s := s.txDone
    ⟨.start, true, s.tx.drvEn, BitVec.ofNat 5 p.length, 0, Memory.writeFrom s.tx.buf 0 p⟩ none) rfl rfl hcount hmax
    fun j b hb => by simpa [State.txCell] using cellValue_writeFrom .txBuf s.resets (m := s.tx.buf) (i := 0) hb
  have hrun := runOps_append_eq_some hsend hreply
  exact ⟨_, hrun, rfl, hcount, rfl, rfl, rfl, rfl, rfl, _, execTxready_of_done rfl rfl, rfl, execTxready_of_masked rfl⟩

end Sys2Proof.Machine
end

section
/-! One received symbol (41_link_receiver.md R100 to R110): each rule of the receiver as an equation per state, and the
instructions of format W by these equations. -/

namespace Sys2Proof.Machine

section
variable {stray : StrayEnd} {addr c : Byte} {r : Receiver}

/-! ## The rules on the receiver's registers -/

theorem contentByte_eq (esc : Bool) (c : Byte) : contentByte esc c = if esc then c ^^^ 0x20 else c := rfl

theorem rxDataByte_of_readingAddress (hs : r.state = .readingAddress) :
    rxDataByte addr c r = rxAddress addr (contentByte r.esc c) r.clearEsc := by
  simp only [rxDataByte, hs]

theorem rxDataByte_of_readingPayload (hs : r.state = .readingPayload) :
    rxDataByte addr c r = rxAppend (contentByte r.esc c) r.clearEsc := by
  simp only [rxDataByte, hs]

/-- R109: content is discarded, yet it consumes the pending escape. -/
theorem rxDataByte_of_skipping (hs : r.state = .skippingPayload ∨ r.state = .skippingReply) :
    rxDataByte addr c r = (r.clearEsc, none) := by
  rcases hs with hs | hs <;> simp only [rxDataByte, hs]

theorem rxDataByte_of_idle (hs : r.state = .idle) : rxDataByte addr c r = (r.clearEsc, some .noFrame) := by
  simp only [rxDataByte, hs]

/-- R103, first arm: the test of the latch does not matter, since it is set in either case. -/
theorem rxFrameEnd_of_readingPayload (hs : r.state = .readingPayload) :
    rxFrameEnd stray addr r = ({ r with state := .idle, esc := false, ready := true }, none) := by
  obtain ⟨state, esc, len, ready, buf⟩ := r
  obtain rfl : state = .readingPayload := hs
  cases ready <;> rfl

theorem rxFrameEnd_of_skippingPayload (hs : r.state = .skippingPayload) :
    rxFrameEnd stray addr r = ({ r with state := .idle, esc := false }, none) := by
  simp only [rxFrameEnd, hs]
  rfl

theorem rxFrameEnd_of_stray (hs : r.state = .idle ∨ r.state = .readingAddress ∨ r.state = .skippingReply) :
    rxFrameEnd stray addr r = rxStrayEnd stray addr frameEnd r := by
  rcases hs with hs | hs | hs <;> simp only [rxFrameEnd, hs]

theorem rxReplyEnd_of_skippingReply (hs : r.state = .skippingReply) :
    rxReplyEnd stray addr r = ({ r with state := .idle, esc := false }, none) := by
  simp only [rxReplyEnd, hs]
  rfl

theorem rxReplyEnd_of_stray (hs : r.state ≠ .skippingReply) :
    rxReplyEnd stray addr r = rxStrayEnd stray addr replyEnd r := by
  cases hr : r.state with
  | skippingReply => exact absurd hr hs
  | idle | readingAddress | readingPayload | skippingPayload => simp only [rxReplyEnd, hr]

theorem rxStrayEnd_toIdle :
    rxStrayEnd .toIdle addr c r = ({ r with state := .idle, esc := false }, some .strayEnd) := rfl

theorem rxStrayEnd_asData : rxStrayEnd .asData addr c r = rxDataByte addr c r := rfl

end

/-! ## The instructions by the rules -/

section
variable {s : State} {c : Byte} {r : Receiver × Option DropCause}

theorem exec_rxFe_of_eq (h : rxFrameEnd s.params.strayEnd s.node.nodeAddr s.rx = r) :
    exec .rxFe s = .next (s.rxDone r) := h ▸ rfl

theorem exec_rxRe_of_eq (h : rxReplyEnd s.params.strayEnd s.node.nodeAddr s.rx = r) :
    exec .rxRe s = .next (s.rxDone r) := h ▸ rfl

theorem exec_rxData_of_eq (h : rxDataByte s.node.nodeAddr c s.rx = r) :
    exec (.rxData c) s = .next (s.rxDone r) := h ▸ rfl

/-- A stray end marker completes under either value of STRAY_END: it ends framing, or is the data byte of its value. -/
theorem exec_of_strayEnd {i : Instr}
    (h : exec i s = .next (s.rxDone (rxStrayEnd s.params.strayEnd s.node.nodeAddr c s.rx))) :
    (s.params.strayEnd = .toIdle →
      exec i s = .next (s.rxDone ({ s.rx with state := .idle, esc := false }, some .strayEnd))) ∧
    (s.params.strayEnd = .asData → exec i s = exec (.rxData c) s ∧ ∃ t, exec i s = .next t) := by
  refine ⟨fun hstray => ?_, fun hstray => ?_⟩ <;> rw [h, hstray]
  · rw [rxStrayEnd_toIdle]
  · exact ⟨congrArg _ (congrArg _ rxStrayEnd_asData), _, rfl⟩

end

/-- The decoder of format W as the six tests of R100 in their order. -/
theorem decodeWire_eq_ite (c : Byte) : decodeWire c =
    if c = frameStart then .rxFs else if c = replyStart then .rxRs else if c = frameEnd then .rxFe
    else if c = replyEnd then .rxRe else if c = escape then .rxEsc else .rxData c := by
  unfold decodeWire classify
  split_ifs <;> rfl

/-- RXBYTE is the instruction of format W that its byte decodes to (R63, R100). -/
theorem exec_rxbyte (c : Byte) (s : State) : exec (.rxbyte c) s = exec (decodeWire c) s := by
  simp only [exec, execRxbyte, rxSymbol, decodeWire]
  cases classify c <;> rfl

/-- Settles O14: the arm of FRAME_START, whose rule does not look at the state but for the label. -/
theorem frameStartOpensRequest : Obligations.FrameStartOpensRequest := fun _ => rfl

/-- Settles O15: the arm of REPLY_START, whose rule does not look at the state but for the label. -/
theorem replyStartSkipsReply : Obligations.ReplyStartSkipsReply := fun _ => rfl

/-- Settles O16: by the state, and for a stray end marker by STRAY_END. -/
theorem frameEndDeliversOrEndsFraming : Obligations.FrameEndDeliversOrEndsFraming := fun _ =>
  ⟨fun hs => exec_rxFe_of_eq (rxFrameEnd_of_readingPayload hs),
    fun hs => exec_rxFe_of_eq (rxFrameEnd_of_skippingPayload hs),
    fun hs => exec_of_strayEnd (exec_rxFe_of_eq (rxFrameEnd_of_stray hs))⟩

/-- Settles O17: by the state, and for a stray end marker by STRAY_END. -/
theorem replyEndEndsReplyOrFraming : Obligations.ReplyEndEndsReplyOrFraming := fun _ =>
  ⟨fun hs => exec_rxRe_of_eq (rxReplyEnd_of_skippingReply hs),
    fun hs => exec_of_strayEnd (exec_rxRe_of_eq (rxReplyEnd_of_stray hs))⟩

/-- Settles O18: the arm of ESCAPE, whose rule writes the flag alone. -/
theorem escapeSetsPendingFlag : Obligations.EscapeSetsPendingFlag := fun _ => rfl

/-- Settles O19: the three outcomes of the address filter on the un-escaped byte. -/
theorem addressByteSelectsNode : Obligations.AddressByteSelectsNode := by
  intro s c d hs hd
  rw [← contentByte_eq] at hd
  rw [exec_rxData_of_eq (rxDataByte_of_readingAddress hs), ← hd]
  rcases rxAddress_cases s.node.nodeAddr d s.rx.clearEsc with ⟨hmatch, hfree, he⟩ | ⟨hmatch, hbusy, he⟩ | ⟨hother, he⟩
    <;> rw [he]
  · exact ⟨fun _ _ => rfl, fun _ hbusy => absurd (hfree.symm.trans hbusy) Bool.false_ne_true,
      fun hother => absurd hmatch hother⟩
  · exact ⟨fun _ hfree => absurd (hfree.symm.trans hbusy) Bool.false_ne_true, fun _ _ => rfl,
      fun hother => absurd hmatch hother⟩
  · exact ⟨fun hmatch => absurd hmatch hother, fun hmatch => absurd hmatch hother, fun _ => rfl⟩

/-- Settles O20: the two outcomes of a payload byte; what the write leaves in the cells is read after write. -/
theorem payloadByteAppendsOrOverflows : Obligations.PayloadByteAppendsOrOverflows := by
  intro s c d hs hd
  rw [← contentByte_eq] at hd
  rw [exec_rxData_of_eq (rxDataByte_of_readingPayload hs), ← hd]
  rcases rxAppend_cases d s.rx.clearEsc with ⟨hlt, he⟩ | ⟨hge, he⟩ <;> rw [he]
  · exact ⟨fun _ => ⟨_, rfl, cellValue_write_same .rxBuf s.resets s.rx.buf s.rx.len.toNat d, fun a ha =>
      cellValue_write_other .rxBuf s.resets s.rx.buf s.rx.len.toNat a d ha⟩, fun hge => absurd hlt (Nat.not_lt.2 hge)⟩
  · exact ⟨fun hlt => absurd hlt (Nat.not_lt.2 hge), fun _ => rfl⟩

/-- Settles O21: R109 and R110, each in its states. -/
theorem dataByteOutsideFrameIsDiscarded : Obligations.DataByteOutsideFrameIsDiscarded := fun _ _ =>
  ⟨fun hs => exec_rxData_of_eq (rxDataByte_of_skipping hs), fun hs => exec_rxData_of_eq (rxDataByte_of_idle hs)⟩

/-- Settles O22: RXBYTE is the decoded instruction, which the tests of R100 pick. -/
theorem rxbyteDispatchesOnRawByte : Obligations.RxbyteDispatchesOnRawByte := by
  refine fun s c => ⟨?_, _, rfl, rfl, rfl, rfl, rfl⟩
  rw [exec_rxbyte, decodeWire_eq_ite]
  simp only [apply_ite (exec · s)]
  rfl

end Sys2Proof.Machine
end

section
/-! The host's operations on the receiver (41_link_receiver.md R112 to R114), and the layout of what RXPOLL returns (R75). -/

namespace Sys2Proof.Machine

/-- Bit 5 of `res` says that a message is ready, bits 4..0 are its length. -/
theorem bits_poll_some (len : BitVec 5) : (HostResult.poll (some len)).bits.toNat = 32 + len.toNat := by
  have happend : (1#1 ++ len).toNat = 32 + len.toNat := by
    rw [BitVec.toNat_append]
    exact (Nat.shiftLeft_add_eq_or_of_lt len.isLt 1).symm
  rw [HostResult.bits, BitVec.toNat_setWidth, happend]
  exact Nat.mod_eq_of_lt (by omega)

theorem exec_rxpoll (s : State) :
    exec .rxpoll s = .next (s.returns (.poll (if s.rx.ready then some s.rx.len else none))) := rfl

/-- Settles O23: the latch decides whether the length is returned. -/
theorem rxpollReportsReadyLength : Obligations.RxpollReportsReadyLength := by
  refine fun s => ⟨fun hready => ⟨?_, bits_poll_some s.rx.len⟩, fun hready => ⟨?_, rfl⟩⟩ <;>
    rw [exec_rxpoll, hready] <;> rfl

/-- Settles O24: the arm of RXR, which returns the cell and writes nothing. -/
theorem rxrReturnsCell : Obligations.RxrReturnsCell := fun _ _ => rfl

/-- Settles O25: the arm of RXACK, which writes the latch alone. -/
theorem rxackClearsLatchOnly : Obligations.RxackClearsLatchOnly := fun _ => rfl

end Sys2Proof.Machine
end

section
/-! Immutability while ready (41_link_receiver.md R115 (a)): outside `ReadingPayload` a set latch guards the message against every
received byte. -/

namespace Sys2Proof.Machine

/-- The message is still there in `r'`, and no byte is being stored over it. -/
def Receiver.KeepsMessage (r r' : Receiver) : Prop :=
  r'.len = r.len ∧ r'.buf = r.buf ∧ r'.state ≠ .readingPayload

section
variable {stray : StrayEnd} {addr : Byte} {r : Receiver}

/-- The address filter skips the frame while the latch is set (R107), so no data byte reaches the buffer. -/
theorem rxDataByte_keepsMessage (hs : r.state ≠ .readingPayload) (hready : r.ready = true) (c : Byte) :
    r.KeepsMessage (rxDataByte addr c r).1 := by
  obtain ⟨hbuf, _, hskips⟩ := rxDataByte_of_not_reading (addr := addr) (c := c) hs
  obtain ⟨hlen, hstate⟩ := hskips hready
  exact ⟨hlen, hbuf, hstate⟩

theorem rxStrayEnd_keepsMessage (hs : r.state ≠ .readingPayload) (hready : r.ready = true) (c : Byte) :
    r.KeepsMessage (rxStrayEnd stray addr c r).1 := by
  cases stray with
  | toIdle => exact ⟨rfl, rfl, nofun⟩
  | asData => exact rxDataByte_keepsMessage hs hready c

theorem rxFrameEnd_keepsMessage (hs : r.state ≠ .readingPayload) (hready : r.ready = true) :
    r.KeepsMessage (rxFrameEnd stray addr r).1 := by
  cases hr : r.state with
  | readingPayload => exact absurd hr hs
  | skippingPayload =>
    rw [rxFrameEnd_of_skippingPayload hr]
    exact ⟨rfl, rfl, nofun⟩
  | idle | readingAddress | skippingReply =>
    rw [rxFrameEnd_of_stray (by simp [hr])]
    exact rxStrayEnd_keepsMessage hs hready frameEnd

theorem rxReplyEnd_keepsMessage (hs : r.state ≠ .readingPayload) (hready : r.ready = true) :
    r.KeepsMessage (rxReplyEnd stray addr r).1 := by
  by_cases hr : r.state = .skippingReply
  · rw [rxReplyEnd_of_skippingReply hr]
    exact ⟨rfl, rfl, nofun⟩
  · rw [rxReplyEnd_of_stray hr]
    exact rxStrayEnd_keepsMessage hs hready replyEnd

/-- No received byte of whatever class touches the message (R100). -/
theorem rxSymbol_keepsMessage (hs : r.state ≠ .readingPayload) (hready : r.ready = true) (c : Byte) :
    r.KeepsMessage (rxSymbol stray addr c r).1 := by
  unfold rxSymbol
  cases classify c with
  | frameStart | replyStart => exact ⟨rfl, rfl, nofun⟩
  | frameEnd => exact rxFrameEnd_keepsMessage hs hready
  | replyEnd => exact rxReplyEnd_keepsMessage hs hready
  | escape => exact ⟨rfl, rfl, hs⟩
  | data => exact rxDataByte_keepsMessage hs hready c

end

/-- Settles O26: by invariant R25 (e) a set latch rules out `ReadingPayload`, the only state in which a byte is stored. -/
theorem readyMessageIsImmutable : Obligations.ReadyMessageIsImmutable := by
  intro s t c hinv hready h
  obtain rfl := Host.Outcome.next.inj h
  have hs : s.rx.state ≠ .readingPayload := fun hs => Bool.false_ne_true ((hinv hs).symm.trans hready)
  exact ⟨by simp [rxSymbol_ready, hs, hready], rxSymbol_keepsMessage hs hready c⟩

end Sys2Proof.Machine
end

section
/-! The driver enable (10_state.md R19): what each operation of the transmitter leaves in it. -/

namespace Sys2Proof.Machine

/-- A byte in `Payload` never touches the driver enable, escaped or not (R135). -/
@[simp] theorem txPayloadStep_drvEn (b : Byte) (t : Transmitter) : (txPayloadStep b t).1.drvEn = t.drvEn := by
  unfold txPayloadStep
  split <;> rfl

/-- TXREADY sets the driver enable with the REPLY_START of `Start`, and otherwise keeps it (R133 to R138). -/
theorem execTxready_drvEn_cases {s t : State} (h : execTxready s = .next t) :
    t.tx.drvEn = s.tx.drvEn ∨
    (t.tx.drvEn = true ∧ s.tx.state = .start ∧ s.tx.irqEn = true ∧ t.out.emitted = some replyStart) := by
  rcases execTxready_next_cases h with ⟨_, rfl⟩ | ⟨hirq, hs, rfl⟩ | ⟨_, _, _, rfl⟩ | ⟨_, _, _, rfl⟩ | ⟨_, _, rfl⟩ |
    ⟨_, _, rfl⟩
  case inr.inl => exact .inr ⟨rfl, hs, hirq, rfl⟩
  case inr.inr.inl => exact .inl (txPayloadStep_drvEn _ _)
  all_goals exact .inl rfl

/-- R139 in `Done`: only the driver enable is written. -/
theorem execTxcomplete_of_done {s : State} (hs : s.tx.state = .done) :
    exec .txcomplete s = .next (s.txDone s.tx.clearDrv none) := by
  simp [exec, execTxcomplete, hs]

/-- R139 in every other state: no register is written. -/
theorem execTxcomplete_of_ne_done {s : State} (hs : s.tx.state ≠ .done) :
    exec .txcomplete s = .next (s.txDone s.tx none) := by
  simp [exec, execTxcomplete, hs]

/-- What an instruction that completes does to the driver enable: it keeps it, or is the TXREADY that opens a reply, or the
TXCOMPLETE after one (R19). -/
theorem exec_drvEn_cases {i : Instr} {s t : State} (h : exec i s = .next t) :
    t.tx.drvEn = s.tx.drvEn ∨
    (t.tx.drvEn = true ∧ s.tx.state = .start ∧ s.tx.irqEn = true ∧ t.out.emitted = some replyStart ∧ i = .txready) ∨
    (t.tx.drvEn = false ∧ s.tx.state = .done ∧ i = .txcomplete) := by
  by_cases hgroup : group i = .transmitter
  · cases i with
    | txready =>
      rcases execTxready_drvEn_cases h with hkeep | ⟨hset, hs, hirq, hemit⟩
      · exact .inl hkeep
      · exact .inr (.inl ⟨hset, hs, hirq, hemit, rfl⟩)
    | txcomplete =>
      by_cases hs : s.tx.state = .done
      · obtain rfl := Host.Outcome.next.inj ((execTxcomplete_of_done hs).symm.trans h)
        exact .inr (.inr ⟨rfl, hs, rfl⟩)
      · obtain rfl := Host.Outcome.next.inj ((execTxcomplete_of_ne_done hs).symm.trans h)
        exact .inl rfl
    | txw idx b =>
      obtain ⟨_, rfl⟩ := execTxw_eq_next h
      exact .inl rfl
    | txstart len =>
      obtain ⟨_, _, rfl⟩ := execTxstart_eq_next h
      exact .inl rfl
    | txstat =>
      obtain rfl := Host.Outcome.next.inj h
      exact .inl rfl
    | _ => simp [group] at hgroup
  · obtain ⟨_, htx, _⟩ := instructionsTouchOwnGroupOnly i s t h
    exact .inl (by rw [htx hgroup])

/-- Settles O44: an idle step and a configuration change keep the transmitter, the reset input releases the driver, and a word
does to it what its instruction does. -/
theorem driverEnableWindow : Obligations.DriverEnableWindow := by
  intro s t h
  rcases step_next_cases h with ⟨_, rfl⟩ | ⟨w, rest, hin, hexec⟩ | ⟨rest, hin, rfl⟩ | ⟨n, rest, _, rfl⟩
  · simp +contextual
  · rcases exec_drvEn_cases hexec with hkeep | ⟨hset, hs, hirq, hemit, hi⟩ | ⟨hclear, hs, hi⟩
    · simp +contextual [hkeep]
    · exact ⟨fun _ _ => ⟨hs, hirq, hemit, w, rest, hin, hi⟩, fun _ hclear => by simp [hset] at hclear⟩
    · exact ⟨fun _ hset => by simp [hclear] at hset, fun _ _ => ⟨_, rest, hin, .inr ⟨hs, w, rfl, hi⟩⟩⟩
  · exact ⟨fun _ hset => absurd hset Bool.false_ne_true, fun _ _ => ⟨_, rest, hin, .inl rfl⟩⟩
  · simp +contextual

/-- Settles O42: the two cases of R139. -/
theorem txcompleteReleasesDriverInDone : Obligations.TxcompleteReleasesDriverInDone := fun _ =>
  ⟨execTxcomplete_of_done, execTxcomplete_of_ne_done⟩

end Sys2Proof.Machine
end

section
/-! The host's operations on the transmitter (42_link_transmitter.md R131, R132, R142), and the layout of what TXSTAT returns
(R75). -/

namespace Sys2Proof.Machine

section
variable {s : State}

theorem Transmitter.busy_of_ne_done {t : Transmitter} (h : t.state ≠ .done) : t.busy = true := decide_eq_true h

theorem execTxw_of_busy (h : s.tx.state ≠ .done) (idx : BitVec 4) (b : Byte) :
    exec (.txw idx b) s = .refused .txBusy := if_pos (Transmitter.busy_of_ne_done h)

theorem execTxstart_of_busy (h : s.tx.state ≠ .done) (len : BitVec 5) :
    exec (.txstart len) s = .refused .txBusy := if_pos (Transmitter.busy_of_ne_done h)

theorem execTxstart_of_long (h : s.tx.state = .done) {len : BitVec 5} (hlen : 16 < len.toNat) :
    exec (.txstart len) s = .refused (.txLength len) := by
  simp [exec, execTxstart, s.tx.busy_eq_false_iff.2 h, maxPayload, hlen]

end

/-- Bit 2 of `res` says that the transmitter is busy, bit 1 is `tx_irq_en`, bit 0 `tx_drv_en`. -/
theorem bits_status : ∀ busy irq drv : Bool,
    (HostResult.status busy irq drv).bits.toNat = 4 * busy.toNat + 2 * irq.toNat + drv.toNat := by decide

/-- Settles O33: a write of one cell in `Done`, and what the cells read after it; else the refusal. -/
theorem txwWritesOneCellOrIsRefused : Obligations.TxwWritesOneCellOrIsRefused := fun s idx b =>
  ⟨fun hdone => ⟨_, execTxw_of_done hdone idx b, cellValue_write_same .txBuf s.resets s.tx.buf idx.toNat b,
      fun a ha => cellValue_write_other .txBuf s.resets s.tx.buf idx.toNat a b ha⟩,
    fun hbusy => execTxw_of_busy hbusy idx b⟩

/-- Settles O34: the start in `Done` of up to 16 bytes, and the two refusals. -/
theorem txstartStartsOrIsRefused : Obligations.TxstartStartsOrIsRefused := fun _ len =>
  ⟨fun hdone hlen => execTxstart_of_done hdone hlen, fun hbusy => execTxstart_of_busy hbusy len,
    fun hdone hlen => execTxstart_of_long hdone hlen⟩

/-- Settles O35: the arm of TXSTAT, which writes no register, and the layout of its result. -/
theorem txstatReportsStatus : Obligations.TxstatReportsStatus := fun _ => ⟨rfl, bits_status⟩

end Sys2Proof.Machine
end

section
/-! One TXREADY (42_link_transmitter.md R133 to R138): the rule of each state, with every register it leaves. -/

namespace Sys2Proof.Machine

/-- Settles O36: the gate of R133 stands before the dispatch on the state. -/
theorem maskedTxreadyHasNoEffect : Obligations.MaskedTxreadyHasNoEffect := fun _ hmasked =>
  execTxready_of_masked hmasked

/-- Settles O37: by the rule of `Start`, which emits and enables the driver in one step. -/
theorem txreadyInStartEmitsReplyStart : Obligations.TxreadyInStartEmitsReplyStart := fun _ hirq hs =>
  execTxready_of_start hirq hs

/-- Settles O38: R135, by whether the byte at the cursor is below the escape threshold. -/
theorem txreadyInPayloadEmitsByteOrEscape : Obligations.TxreadyInPayloadEmitsByteOrEscape := by
  intro s hirq hs hcursor
  rw [execTxready_of_payload hirq hs hcursor]
  refine ⟨fun hlow => ?_, fun hhigh => ?_⟩
  · rw [txPayloadStep_of_lt hlow]
    rfl
  · rw [txPayloadStep_of_ge hhigh]
    rfl

/-- Settles O39: by the rule of `Escaped`, whose cursor moves as in `Payload`. -/
theorem txreadyInEscapedEmitsMaskedByte : Obligations.TxreadyInEscapedEmitsMaskedByte := fun _ hirq hs hcursor =>
  execTxready_of_escaped hirq hs hcursor

/-- Settles O40: by the rules of `End` and of `Done`. -/
theorem txreadyInEndAndDone : Obligations.TxreadyInEndAndDone := fun _ hirq =>
  ⟨execTxready_of_endMark hirq, execTxready_of_done hirq⟩

end Sys2Proof.Machine
end

section
/-! The motion operations of the host (43_motion.md R151 to R154) under a well-formed configuration: the next state of each, and
the words it writes in exact arithmetic. -/

namespace Sys2Proof.Machine

/-- The motion group as ZERO leaves it (R152). -/
def State.homing (s : State) : Motion :=
  { s.mot with
    state := .zeroing, target := 0, position := BitVec.ofNat 16 (s.node.maxpos.toNat + s.params.overrunMargin) }

section
variable {s : State} (hok : s.configOk = true)
include hok

theorem execGoto_of_zeroing (hs : s.mot.state = .zeroing) (p : BitVec 16) :
    exec (.goto p) s = .next (s.motDone s.mot) := by
  simp only [exec, execGoto, ifConfigOk_of_ok hok, if_pos hs]

theorem execGoto_of_not_zeroing (hs : s.mot.state ≠ .zeroing) (p : BitVec 16) :
    exec (.goto p) s = .next (s.motDone
      { s.mot with target := clampPosition p s.node.minpos s.node.maxpos, state := .on }) := by
  simp only [exec, execGoto, ifConfigOk_of_ok hok, if_neg hs]

theorem execZero_of_configOk : exec .zero s = .next (s.motDone s.homing) :=
  ifConfigOk_of_ok hok _

theorem execOff_of_configOk :
    exec .off s = .next (s.motDone { s.mot with target := s.mot.position, state := .off, coil := coilOff }) :=
  ifConfigOk_of_ok hok _

/-- The position that ZERO assumes is within 0..32767, so the register holds it without wrap-around (R7). -/
theorem State.homing_position_toNat :
    s.homing.position.toNat = s.node.maxpos.toNat + s.params.overrunMargin := by
  have hlimits := State.limits_le hok
  rw [State.homing, BitVec.toNat_ofNat, Nat.mod_eq_of_lt (by omega)]

end

/-- Position stands in the upper half of `res`, target in the lower half (30_encoding.md R75). -/
theorem bits_positions_toNat (position target : BitVec 16) :
    (HostResult.positions position target).bits.toNat = position.toNat * 65536 + target.toNat := by
  rw [HostResult.bits, BitVec.toNat_append, ← Nat.shiftLeft_add_eq_or_of_lt target.isLt, Nat.shiftLeft_eq]

/-- Settles O45: by whether the motor is homing, the clamp in exact arithmetic. -/
theorem gotoClampsAndTracks : Obligations.GotoClampsAndTracks := fun _ p hok =>
  ⟨fun hs => execGoto_of_zeroing hok hs p,
    fun hs => ⟨_, execGoto_of_not_zeroing hok hs p, clampPosition_toNat p _ _⟩⟩

/-- Settles O46: the state after ZERO, whose position does not wrap around. -/
theorem zeroStartsHoming : Obligations.ZeroStartsHoming := fun _ hok =>
  ⟨_, execZero_of_configOk hok, State.homing_position_toNat hok⟩

/-- Settles O47: the state after OFF. -/
theorem offDeenergizesAtOnce : Obligations.OffDeenergizesAtOnce := fun _ hok => execOff_of_configOk hok

/-- Settles O48: GET passes the gate of R7 and writes no register, and its result is laid out in two halves. -/
theorem getReturnsPositionAndTarget : Obligations.GetReturnsPositionAndTarget := fun s hok =>
  ⟨ifConfigOk_of_ok hok _, bits_positions_toNat s.mot.position s.mot.target⟩

/-- Settles O13: OFF takes over as its target the position that ZERO has just assumed, which lies the margin above `maxpos`. -/
theorem offDuringHomingLeavesTargetAboveMaxpos : Obligations.OffDuringHomingLeavesTargetAboveMaxpos := by
  intro s hok hmargin
  have hstart := State.homing_position_toNat hok
  exact ⟨_, _, execZero_of_configOk hok, execOff_of_configOk hok, rfl, rfl, hstart,
    (Nat.lt_add_of_pos_right hmargin).trans_eq hstart.symm⟩

end Sys2Proof.Machine
end

section
/-! The registers after one TICK (43_motion.md R155 to R163): each as a function of the registers that the end-of-homing test
leaves, in exact arithmetic. -/

namespace Sys2Proof.Machine

/-- The state after the end-of-homing test (R156). -/
theorem endHoming_state (n : BitVec 16) (m : Motion) :
    (endHoming n m).state = if m.state = .zeroing ∧ m.position = m.target then .on else m.state := by
  unfold endHoming
  split <;> rfl

/-- The target after the end-of-homing test (R156). -/
theorem endHoming_target (n : BitVec 16) (m : Motion) :
    (endHoming n m).target = if m.state = .zeroing ∧ m.position = m.target then n else m.target := by
  unfold endHoming
  split <;> rfl

/-- Until the motor has come home the test changes nothing. -/
theorem endHoming_of_not_home {n : BitVec 16} {m : Motion} (h : ¬(m.state = .zeroing ∧ m.position = m.target)) :
    endHoming n m = m := if_neg h

@[simp] theorem tickMotion_state (p : Params) (n : BitVec 16) (m : Motion) :
    (tickMotion p n m).state = (endHoming n m).state := rfl
@[simp] theorem tickMotion_target (p : Params) (n : BitVec 16) (m : Motion) :
    (tickMotion p n m).target = (endHoming n m).target := rfl
@[simp] theorem tickMotion_position (p : Params) (n : BitVec 16) (m : Motion) :
    (tickMotion p n m).position = (tickMove p (endHoming n m)).position := rfl
@[simp] theorem tickMotion_phase (p : Params) (n : BitVec 16) (m : Motion) :
    (tickMotion p n m).phase = (tickMove p (endHoming n m)).phase := rfl

/-- `dir × moved` (R160). -/
def signedMove (p : Params) (m : Motion) : Int := moveDirection m * (movedBy p m : Int)

/-- The sign of the move by the strict comparison of position and target: at the target nothing is moved. -/
theorem signedMove_eq (p : Params) (m : Motion) :
    signedMove p m = if m.position.toNat < m.target.toNat then (movedBy p m : Int) else -(movedBy p m : Int) := by
  have hd := distanceToGo_eq m
  have hm := movedBy_le_distanceToGo p m
  unfold signedMove
  rcases moveDirection_cases m with ⟨h, e⟩ | ⟨h, e⟩ | ⟨h, e⟩ <;> rw [e] <;> split <;> omega

/-- The position moves by the signed move, with no wrap-around (R160). -/
theorem tickMove_position_toInt (p : Params) (m : Motion) :
    ((tickMove p m).position.toNat : Int) = (m.position.toNat : Int) + signedMove p m := by
  have hd := distanceToGo_eq m
  have hm := movedBy_le_distanceToGo p m
  rw [tickMove_position_toNat, signedMove_eq]
  split <;> omega

/-- The phase moves by the signed move modulo `N`, and ends in `0 .. N − 1` (R161). -/
theorem tickMove_phase_toInt (p : Params) (m : Motion) :
    ((tickMove p m).phase.toNat : Int) = ((m.phase.toNat : Int) + signedMove p m) % (phaseMod p : Int) ∧
      (tickMove p m).phase.toNat < phaseMod p :=
  phaseAdvance_toNat p m.phase (signedMove p m)

/-- The distance moved is the step magnitude of the new ramp, cut off at the target (R159, R160). -/
theorem movedBy_eq (p : Params) (m : Motion) :
    movedBy p m =
      min ((tickMove p m).ramp.toNat / 2 ^ (8 - p.microstepShift.val) + 1) (distanceToGo m) := by
  rw [movedBy, stepMagnitude_eq, tickMove_ramp]

/-- A tick moves by at most `2^s`, and by at least 1 short of the target (R159). -/
theorem movedBy_bounds (p : Params) (m : Motion) :
    movedBy p m ≤ 2 ^ p.microstepShift.val ∧ (0 < distanceToGo m → 0 < movedBy p m) := by
  have hstep := stepMagnitude_le p (rampUpdate m.ramp (distanceToGo m))
  unfold movedBy
  omega

/-- The coil pattern of the new phase (R162, R163). -/
theorem tickMotion_coil (p : Params) (n : BitVec 16) (m : Motion) :
    some (tickMotion p n m).coil =
      if (tickMotion p n m).state = .off then some coilOff
      else p.stepTable[(tickMotion p n m).phase.toNat / 2 ^ p.microstepShift.val]? := by
  have hphase := (tickMove_phase_toInt p (endHoming n m)).2
  rw [tickMotion, driveCoils_coil, driveCoils_state, driveCoils_phase, ← stepPattern_eq p _ hphase]
  split <;> rfl

/-- Settles O50: the registers of the next state one by one, the distance and the move being those after the end-of-homing
test. -/
theorem tickFollowsSevenSubSteps : Obligations.TickFollowsSevenSubSteps := by
  intro s hok _
  let h := endHoming s.node.minpos s.mot
  obtain ⟨hphase, hrange⟩ := tickMove_phase_toInt s.params h
  have hposition := tickMove_position_toNat s.params h
  have hdelta := distanceToGo_eq h
  rw [signedMove_eq] at hphase
  simp only [h, endHoming_position, endHoming_phase] at hphase hposition hdelta
  refine ⟨_, execTick_of_configOk hok, distanceToGo h, movedBy s.params h, (tickMove s.params h).phase.toNat,
    endHoming_state _ _, endHoming_target _ _, hdelta, ?_, movedBy_eq _ _, hposition, hrange, rfl, hphase,
    tickMotion_coil _ _ _⟩
  exact (rampUpdate_toNat _ _).trans (by rw [endHoming_ramp])

/-- Settles O53: both the phase and the position move by the signed move. -/
theorem phaseTracksPosition : Obligations.PhaseTracksPosition := by
  intro s t htick
  obtain rfl := execTick_eq_next htick
  obtain ⟨hphase, _⟩ := tickMove_phase_toInt s.params (endHoming s.node.minpos s.mot)
  have hposition := tickMove_position_toInt s.params (endHoming s.node.minpos s.mot)
  rw [endHoming_phase] at hphase
  rw [endHoming_position] at hposition
  change _ % (phaseMod s.params : Int) = _ % (phaseMod s.params : Int)
  rw [State.motDone_mot, tickMotion_phase, tickMotion_position, hphase, hposition, Int.emod_sub_emod,
    add_sub_cancel_left, add_sub_cancel_left]

/-- Settles O52: the move is between 1 and `2^s` short of the target, and never longer than the way to it. -/
theorem tickApproachesWithoutOvershoot : Obligations.TickApproachesWithoutOvershoot := by
  intro s t htick
  obtain rfl := execTick_eq_next htick
  let h := endHoming s.node.minpos s.mot
  have hdelta := distanceToGo_eq h
  have hle := movedBy_le_distanceToGo s.params h
  obtain ⟨hmax, hpos⟩ := movedBy_bounds s.params h
  have hposition := tickMove_position_toNat s.params h
  simp only [State.motDone_mot, tickMotion_position, tickMotion_target, ne_eq, BitVec.toNat_eq]
  simp only [h, endHoming_position] at *
  split at hposition <;> omega

/-- In `Off` at rest the ramp falls to 0, but for a ramp of 0, which the strict comparison of R158 lets rise. -/
theorem rampUpdate_at_rest (ramp : BitVec 8) : rampUpdate ramp 0 = if ramp = 0 then 1 else 0 := by
  unfold rampUpdate
  by_cases h : ramp = 0
  · subst h; rfl
  · rw [if_neg h, if_pos (by simpa [BitVec.toNat_eq, Nat.pos_iff_ne_zero] using h)]; rfl

/-- At the target a tick changes the ramp and nothing else (R158, R160, R161). -/
theorem tickMove_at_target {p : Params} {m : Motion} (h : m.position = m.target) (hphase : m.phase.toNat < phaseMod p) :
    tickMove p m = { m with ramp := if m.ramp = 0 then 1 else 0 } := by
  have hdelta : distanceToGo m = 0 := by simp [distanceToGo_eq, h]
  have hmove : signedMove p m = 0 := by
    have hle := movedBy_le_distanceToGo p m
    rw [signedMove_eq]
    split <;> omega
  have hkeep : (tickMove p m).phase = m.phase := by
    obtain ⟨hnew, _⟩ := tickMove_phase_toInt p m
    rw [hmove, add_zero, Int.emod_eq_of_lt (by omega) (by omega)] at hnew
    exact BitVec.eq_of_toNat_eq (by omega)
  calc tickMove p m
      = { m with
          ramp := (tickMove p m).ramp, position := (tickMove p m).position, phase := (tickMove p m).phase } := rfl
    _ = _ := by rw [tickMove_ramp, hdelta, rampUpdate_at_rest, tickMove_position_of_at_target h.symm, hkeep]

/-- Settles O51: outside homing sub-step 1 does nothing, at the target sub-steps 2 to 6 change the ramp alone, and in `Off` the
coils are off. -/
theorem tickInOffAtRestMovesNothing : Obligations.TickInOffAtRestMovesNothing := by
  intro s hoff hrest hphase hok
  have hmot : tickMotion s.params s.node.minpos s.mot =
      { s.mot with ramp := if s.mot.ramp = 0 then 1 else 0, coil := coilOff } := by
    rw [tickMotion, endHoming_of_not_home (by simp [hoff]), tickMove_at_target hrest hphase, driveCoils, if_pos hoff]
  exact (execTick_of_configOk hok).trans (by rw [hmot]; rfl)

end Sys2Proof.Machine
end

section
/-! The limits of position and target (10_state.md R24): each motion operation keeps them while the configuration stays. -/

namespace Sys2Proof.Machine

/-- TICK ends between position and target; at the end of homing the target becomes `minpos`, and in `Off` nothing moves. -/
theorem execTick_withinLimits {s t : State} (h : execTick s = .next t) (hlim : s.withinLimits) : t.withinLimits := by
  obtain rfl := execTick_eq_next h
  obtain ⟨hok, hposition, htarget, htracked, hoff⟩ := hlim
  obtain ⟨horder, _⟩ := s.configOk_iff.1 hok
  have hle := tickMove_position_le s.params (endHoming s.node.minpos s.mot)
  have hrest := tickMove_position_of_at_target (p := s.params) (m := endHoming s.node.minpos s.mot)
  rcases endHoming_cases s.node.minpos s.mot with ⟨_, _, he⟩ | ⟨_, he⟩ <;>
    simp only [State.withinLimits, State.motDone_mot, State.motDone_node, State.motDone_params, tickMotion_position,
      tickMotion_target, tickMotion_state, he] at hle hrest ⊢
  · exact ⟨hok, by omega, by omega, fun _ => horder, nofun⟩
  · exact ⟨hok, by omega, htarget, htracked, fun hs => (hoff hs).trans (hrest (hoff hs)).symm⟩

/-- GOTO clamps the target to the limits, or is without effect (R151). -/
theorem execGoto_withinLimits {dest : BitVec 16} {s t : State} (h : execGoto dest s = .next t) (hlim : s.withinLimits) :
    t.withinLimits := by
  obtain ⟨hok, rfl⟩ := ifConfigOk_eq_next.1 h
  split
  · exact hlim
  · obtain ⟨_, hposition, _, _, _⟩ := hlim
    obtain ⟨horder, _⟩ := s.configOk_iff.1 hok
    have htarget : (clampPosition dest s.node.minpos s.node.maxpos).toNat ≤ s.node.maxpos.toNat := by
      rw [clampPosition_toNat]
      omega
    exact ⟨hok, hposition, htarget.trans (Nat.le_add_right _ _), fun _ => htarget, nofun⟩

/-- ZERO assumes the highest position allowed, with the target 0 (R152). -/
theorem execZero_withinLimits {s t : State} (h : execZero s = .next t) : t.withinLimits := by
  obtain ⟨hok, rfl⟩ := ifConfigOk_eq_next.1 h
  exact ⟨hok, (State.homing_position_toNat hok).le, Nat.zero_le _, fun _ => Nat.zero_le _, nofun⟩

/-- OFF takes the position as the target (R153). -/
theorem execOff_withinLimits {s t : State} (h : execOff s = .next t) (hlim : s.withinLimits) : t.withinLimits := by
  obtain ⟨hok, rfl⟩ := ifConfigOk_eq_next.1 h
  obtain ⟨_, hposition, _, _, _⟩ := hlim
  exact ⟨hok, hposition, hposition, nofun, fun _ => rfl⟩

/-- R7 is about the parameters and the configuration inputs alone. -/
theorem State.configOk_congr {s t : State} (hparams : t.params = s.params) (hnode : t.node = s.node) :
    t.configOk = s.configOk := by
  rw [State.configOk, hparams, hnode, State.configOk]

/-- The limits are about the motion group under the configuration in force. -/
theorem State.withinLimits_of_eq {s t : State} (hparams : t.params = s.params) (hnode : t.node = s.node)
    (hmot : t.mot = s.mot) (hlim : s.withinLimits) : t.withinLimits := by
  simpa only [State.withinLimits, State.configOk_congr hparams hnode, hparams, hnode, hmot] using hlim

/-- Every instruction that completes keeps the limits. -/
theorem exec_withinLimits {i : Instr} {s t : State} (h : exec i s = .next t) (hlim : s.withinLimits) :
    t.withinLimits := by
  by_cases hgroup : group i = .motion
  · cases i with
    | tick => exact execTick_withinLimits h hlim
    | goto p => exact execGoto_withinLimits h hlim
    | zero => exact execZero_withinLimits h
    | off => exact execOff_withinLimits h hlim
    | get =>
      obtain ⟨_, rfl⟩ := ifConfigOk_eq_next.1 h
      exact hlim
    | _ => simp [group] at hgroup
  · obtain ⟨_, _, hmot, hparams, hnode, _⟩ := instructionsTouchOwnGroupOnly i s t h
    exact State.withinLimits_of_eq hparams hnode (hmot hgroup) hlim

/-- Settles O12: an idle step keeps the motion group, a word keeps the limits as its instruction does, and the reset input puts
position and target to 0. -/
theorem stepKeepsPositionWithinLimits : Obligations.StepKeepsPositionWithinLimits := by
  intro s t hlim hconst h
  rcases step_next_cases h with ⟨_, rfl⟩ | ⟨w, rest, _, hexec⟩ | ⟨rest, _, rfl⟩ | ⟨n, rest, hin, rfl⟩
  · exact hlim
  · exact exec_withinLimits hexec hlim
  · obtain ⟨hok, _⟩ := hlim
    exact ⟨hok, Nat.zero_le _, Nat.zero_le _, fun _ => Nat.zero_le _, fun _ => rfl⟩
  · exact absurd hin (hconst n rest)

end Sys2Proof.Machine
end

section
/-! Runs of ticks (43_motion.md R164, R165): a run of TICK operations is the iteration of one function on the motion group,
which closes the distance to the target tick by tick and then rests there. -/

namespace Sys2Proof.Machine

/-- A run of ticks completes, emits nothing, and iterates the seven sub-steps on the motion group alone. -/
theorem runOps_ticks {s : State} (hok : s.configOk = true) (k : Nat) :
    ∃ t, runOps (List.replicate k .tick) s = some ([], t) ∧
      t.mot = (tickMotion s.params s.node.minpos)^[k] s.mot ∧ t.rx = s.rx ∧ t.tx = s.tx ∧ t.params = s.params ∧
      t.node = s.node := by
  induction k generalizing s with
  | zero => exact ⟨s, rfl, rfl, rfl, rfl, rfl, rfl⟩
  | succ k ih =>
    obtain ⟨t, hrun, hregs⟩ := ih (s := s.motDone (tickMotion s.params s.node.minpos s.mot)) hok
    have hstep : exec .tick s = .next (s.motDone (tickMotion s.params s.node.minpos s.mot)) := execTick_of_configOk hok
    exact ⟨t, by rw [List.replicate_succ, runOps_cons_of_silent hstep rfl, hrun], hregs⟩

/-- A move from `m` is over in `m'`: the position is the target that `m` had, and neither it nor the state has changed. -/
structure Arrives (m m' : Motion) : Prop where
  position : m'.position = m.target
  target : m'.target = m.target
  state : m'.state = m.state

theorem distanceToGo_eq_zero_iff (m : Motion) : distanceToGo m = 0 ↔ m.position = m.target := by
  rw [distanceToGo_eq, ← BitVec.toNat_inj]
  omega

/-- A tick that moves shortens the distance. -/
theorem distanceToGo_tickMove_lt (p : Params) {m : Motion} (h : 0 < distanceToGo m) :
    distanceToGo (tickMove p m) < distanceToGo m := by
  have hle := movedBy_le_distanceToGo p m
  have hpos := (movedBy_bounds p m).2 h
  have hd := distanceToGo_eq m
  rw [distanceToGo_eq (tickMove p m), tickMove_target, tickMove_position_toNat]
  split <;> omega

section
variable {p : Params} {n : BitVec 16}

/-- In every state, ticks alone close the distance, by 1 each at least (R164). -/
theorem exists_iterate_tickMotion_arrives (m : Motion) :
    ∃ k ≤ distanceToGo m, Arrives m ((tickMotion p n)^[k] m) := by
  by_cases hd : distanceToGo m = 0
  · exact ⟨0, Nat.zero_le _, (distanceToGo_eq_zero_iff m).1 hd, rfl, rfl⟩
  · have hkeep : endHoming n m = m := endHoming_of_not_home fun ⟨_, hp⟩ => hd ((distanceToGo_eq_zero_iff m).2 hp)
    have hlt : distanceToGo (tickMotion p n m) < distanceToGo m := by
      rw [tickMotion, hkeep]
      exact distanceToGo_tickMove_lt p (Nat.pos_of_ne_zero hd)
    obtain ⟨k, hk, harrives⟩ := exists_iterate_tickMotion_arrives (tickMotion p n m)
    obtain ⟨hposition, htarget, hstate⟩ := harrives
    rw [tickMotion_target, hkeep] at hposition htarget
    rw [tickMotion_state, hkeep] at hstate
    exact ⟨k + 1, by omega, hposition, htarget, hstate⟩
termination_by distanceToGo m

/-- At the target and outside homing, ticks change neither position, target nor state. -/
theorem iterate_tickMotion_of_at_target {m : Motion} (hs : m.state ≠ .zeroing) (h : m.position = m.target) (k : Nat) :
    Arrives m ((tickMotion p n)^[k] m) := by
  induction k with
  | zero => exact ⟨h, rfl, rfl⟩
  | succ k ih =>
    obtain ⟨hposition, htarget, hstate⟩ := ih
    have hkeep := endHoming_of_not_home (n := n) (m := (tickMotion p n)^[k] m) fun ⟨hz, _⟩ => hs (hstate ▸ hz)
    rw [Function.iterate_succ_apply']
    refine ⟨?_, ?_, ?_⟩
    · rw [tickMotion_position, hkeep, tickMove_position_of_at_target (htarget.trans hposition.symm), hposition]
    · rw [tickMotion_target, hkeep, htarget]
    · rw [tickMotion_state, hkeep, hstate]

/-- Outside homing a move is over after as many ticks as its distance, or any greater number (R164). -/
theorem iterate_tickMotion_arrives {m : Motion} {k : Nat} (hs : m.state ≠ .zeroing) (hk : distanceToGo m ≤ k) :
    Arrives m ((tickMotion p n)^[k] m) := by
  obtain ⟨j, hj, harrives⟩ := exists_iterate_tickMotion_arrives (p := p) (n := n) m
  obtain ⟨hposition, htarget, hstate⟩ := harrives
  have hrest := iterate_tickMotion_of_at_target (p := p) (n := n) (hstate ▸ hs) (hposition.trans htarget.symm) (k - j)
  rw [← Function.iterate_add_apply, Nat.sub_add_cancel (by omega)] at hrest
  exact ⟨hrest.position.trans htarget, hrest.target.trans htarget, hrest.state.trans hstate⟩

/-- Homed at 0, the tick that ends homing sets out for `minpos`, and from there no more than `minpos` is left to go
(R156). -/
theorem tickMotion_of_home {m : Motion} (hs : m.state = .zeroing) (hp : m.position = 0) (ht : m.target = 0) :
    (tickMotion p n m).state = .on ∧ (tickMotion p n m).target = n ∧ distanceToGo (tickMotion p n m) ≤ n.toNat := by
  have hhome : m.state = .zeroing ∧ m.position = m.target := ⟨hs, hp.trans ht.symm⟩
  have hstate : (endHoming n m).state = .on := by rw [endHoming_state, if_pos hhome]
  have htarget : (endHoming n m).target = n := by rw [endHoming_target, if_pos hhome]
  have hle : (tickMotion p n m).position.toNat ≤ n.toNat := by
    simpa [hp, htarget] using tickMove_position_le p (endHoming n m)
  refine ⟨hstate, htarget, ?_⟩
  rw [distanceToGo_eq, tickMotion_target, htarget]
  omega

end

/-- Settles O54: the run of ticks is the iteration on the motion group, which has arrived. -/
theorem moveCompletesWithinDistance : Obligations.MoveCompletesWithinDistance := by
  intro s k hok hs hk
  rw [← distanceToGo_eq] at hk
  obtain ⟨t, hrun, hmot, hrx, htx, _⟩ := runOps_ticks hok k
  obtain ⟨hposition, htarget, hstate⟩ :=
    iterate_tickMotion_arrives (p := s.params) (n := s.node.minpos) hs hk
  rw [← hmot] at hposition htarget hstate
  exact ⟨t, hrun, hposition, htarget, hstate, hrx, htx⟩

/-- After ZERO, ticks alone bring the position to 0, still homing (R165). -/
theorem runOps_zero_ticks_home {s : State} (hok : s.configOk = true) :
    ∃ k ≤ s.node.maxpos.toNat + s.params.overrunMargin, ∃ t,
      runOps (.zero :: List.replicate k .tick) s = some ([], t) ∧ Arrives s.homing t.mot ∧
      t.params = s.params ∧ t.node = s.node := by
  have hdistance : distanceToGo s.homing = s.node.maxpos.toNat + s.params.overrunMargin := by
    rw [distanceToGo_eq, State.homing_position_toNat hok]
    simp [State.homing]
  obtain ⟨k, hk, harrives⟩ := exists_iterate_tickMotion_arrives (p := s.params) (n := s.node.minpos) s.homing
  obtain ⟨t, hrun, hmot, _, _, hregs⟩ := runOps_ticks (s := s.motDone s.homing) hok k
  have hhoming := runOps_cons_of_silent (execZero_of_configOk hok) rfl (List.replicate k .tick)
  exact ⟨k, hdistance ▸ hk, t, hhoming.trans hrun, hmot ▸ harrives, hregs⟩

/-- Settles O55: ZERO starts a move to 0 that arrives still homing, the next tick ends homing, and from there a move of at most
`minpos` is left. -/
theorem homingConverges : Obligations.HomingConverges := by
  intro s hok
  obtain ⟨k, hk, t, hrun, ⟨hposition, htarget, hstate⟩, hparams, hnode⟩ := runOps_zero_ticks_home hok
  have hokt : t.configOk = true := State.configOk_congr hparams hnode ▸ hok
  have htick := execTick_of_configOk hokt
  rw [hnode] at htick
  obtain ⟨hon, hminpos, hleft⟩ := tickMotion_of_home (p := t.params) (n := s.node.minpos) hstate hposition htarget
  refine ⟨k, t, _, hk, hrun, hstate, hposition, htarget, htick, hon, hminpos, fun j hj => ?_⟩
  obtain ⟨v, hrest, hvposition, hvtarget, hvstate, _⟩ :=
    moveCompletesWithinDistance (t.motDone (tickMotion t.params s.node.minpos t.mot)) j hokt (hon.trans_ne nofun)
      (distanceToGo_eq _ ▸ hleft.trans hj)
  exact ⟨v, hrest, hvstate.trans hon, hvtarget.trans hminpos, hvposition.trans hminpos⟩

end Sys2Proof.Machine
end

section
/-! Instructions of different groups (60_exceptions.md R210). An instruction reads and writes the registers of its own group alone,
beside a context that no instruction changes; so what it does to its group is the same before and after a step of another group. -/

namespace Sys2Proof.Machine

/-- What the registers of one group are. -/
def Group.Regs : Group → Type
  | .receiver => Receiver
  | .transmitter => Transmitter
  | .motion => Motion
  | .reserved => Unit

/-- The registers of one group of 10_state.md R10; the reserved codes have none. -/
def State.regs (s : State) : (g : Group) → g.Regs
  | .receiver => s.rx
  | .transmitter => s.tx
  | .motion => s.mot
  | .reserved => ()

theorem State.regs_receiver {s t : State} (h : s.rx = t.rx) : s.regs .receiver = t.regs .receiver := h

theorem State.regs_transmitter {s t : State} (h : s.tx = t.tx) : s.regs .transmitter = t.regs .transmitter := h

/-- The fields that no instruction changes: parameters, configuration inputs, pending inputs and the reset count. -/
def State.context (s : State) : Params × NodeConfig × List Input × Nat := (s.params, s.node, s.inputs, s.resets)

theorem State.context_eq_iff {s t : State} : s.context = t.context ↔
    s.params = t.params ∧ s.node = t.node ∧ s.inputs = t.inputs ∧ s.resets = t.resets := by
  simp [State.context]

/-- The context and the registers of every group are the whole state but for the outputs. -/
theorem State.sameBut_of_regs {s t : State} (hcontext : s.context = t.context) (hregs : ∀ g, s.regs g = t.regs g) :
    s.sameBut t := by
  obtain ⟨hparams, hnode, hinputs, hresets⟩ := State.context_eq_iff.1 hcontext
  have hrx : s.rx = t.rx := hregs .receiver
  have htx : s.tx = t.tx := hregs .transmitter
  have hmot : s.mot = t.mot := hregs .motion
  simp [State.sameBut, hparams, hnode, hinputs, hresets, hrx, htx, hmot]

theorem exec_context {i : Instr} {s t : State} (h : exec i s = .next t) : t.context = s.context := by
  obtain ⟨_, _, _, hparams, hnode, hinputs, hresets, _⟩ := instructionsTouchOwnGroupOnly i s t h
  exact State.context_eq_iff.2 ⟨hparams, hnode, hinputs, hresets⟩

/-- R31, for all groups at once. -/
theorem exec_regs_of_ne {i : Instr} {s t : State} (h : exec i s = .next t) {g : Group} (hg : g ≠ group i) :
    t.regs g = s.regs g := by
  obtain ⟨hrx, htx, hmot, _⟩ := instructionsTouchOwnGroupOnly i s t h
  cases g with
  | receiver => exact hrx hg.symm
  | transmitter => exact htx hg.symm
  | motion => exact hmot hg.symm
  | reserved => rfl

section
variable {s s' t : State}

/-- TXREADY takes the same branch, and the byte at the cursor is the same one, in every state with the same transmitter. -/
theorem execTxready_congr (h : execTxready s = .next t) (htx : s.tx = s'.tx) (hresets : s.resets = s'.resets) :
    ∃ t', exec .txready s' = .next t' ∧ t.tx = t'.tx := by
  have hcell (a : Nat) : s.txCell a = s'.txCell a := by rw [State.txCell, htx, hresets, State.txCell]
  rcases execTxready_next_cases h with ⟨hi, rfl⟩ | ⟨hi, hs, rfl⟩ | ⟨hi, hs, hc, rfl⟩ | ⟨hi, hs, hc, rfl⟩ | ⟨hi, hs, rfl⟩ |
    ⟨hi, hs, rfl⟩ <;> simp only [htx] at hi
  case inl => exact ⟨_, execTxready_of_masked hi, htx⟩
  all_goals simp only [htx] at hs
  · exact ⟨_, execTxready_of_start hi hs, by simp [htx]⟩
  · exact ⟨_, execTxready_of_payload hi hs (htx ▸ hc), by simp [htx, hcell]⟩
  · exact ⟨_, execTxready_of_escaped hi hs (htx ▸ hc), by simp [htx]⟩
  · exact ⟨_, execTxready_of_endMark hi hs, by simp [htx]⟩
  · exact ⟨_, execTxready_of_done hi hs, by simp [htx]⟩

/-- An operation behind the gate of R7 passes it under the same parameters and configuration inputs. -/
theorem ifConfigOk_congr {u u' : State} (h : ifConfigOk s u = .next t) (hparams : s.params = s'.params)
    (hnode : s.node = s'.node) (hmot : u.mot = u'.mot) : ∃ t', ifConfigOk s' u' = .next t' ∧ t.mot = t'.mot := by
  obtain ⟨hok, rfl⟩ := ifConfigOk_eq_next.1 h
  exact ⟨u', ifConfigOk_of_ok (State.configOk_congr hparams hnode ▸ hok) u', hmot⟩

/-- What an instruction does to its own group depends on that group and the context alone. -/
theorem exec_congr {i : Instr} (h : exec i s = .next t) (hcontext : s.context = s'.context)
    (hregs : s.regs (group i) = s'.regs (group i)) :
    ∃ t', exec i s' = .next t' ∧ t.regs (group i) = t'.regs (group i) := by
  obtain ⟨hparams, hnode, _, hresets⟩ := State.context_eq_iff.1 hcontext
  cases i with
  | rxFs | rxRs | rxRe | rxFe | rxEsc | rxData c | rxbyte c | rxack | rxpoll | rxr idx =>
    have hrx : s.rx = s'.rx := hregs
    obtain rfl := Host.Outcome.next.inj h
    exact ⟨_, rfl, State.regs_receiver (by simp [hrx, hparams, hnode])⟩
  | txready => exact execTxready_congr h hregs hresets
  | txcomplete | txstat =>
    have htx : s.tx = s'.tx := hregs
    obtain rfl := Host.Outcome.next.inj h
    exact ⟨_, rfl, State.regs_transmitter (by simp [htx])⟩
  | txw idx b =>
    have htx : s.tx = s'.tx := hregs
    obtain ⟨hdone, rfl⟩ := execTxw_eq_next h
    exact ⟨_, execTxw_of_done (htx ▸ hdone) idx b, State.regs_transmitter (by simp [htx])⟩
  | txstart len =>
    have htx : s.tx = s'.tx := hregs
    obtain ⟨hdone, hlen, rfl⟩ := execTxstart_eq_next h
    exact ⟨_, execTxstart_of_done (htx ▸ hdone) hlen, State.regs_transmitter (by simp [htx])⟩
  | tick | goto p | zero | off | get =>
    have hmot : s.mot = s'.mot := hregs
    exact ifConfigOk_congr h hparams hnode (by simp [hmot, hparams, hnode])
  | reservedE | reservedF => cases h

end

/-- Settles O58: each of the two finds its own group and the context as in the other order, so it completes and leaves its group
the same; the other one keeps that group, and both keep the rest. -/
theorem differentGroupsCommute : Obligations.DifferentGroupsCommute := by
  intro i j s t u hgroups hi hj
  obtain ⟨t', hj', htj⟩ := exec_congr hj (exec_context hi) (exec_regs_of_ne hi hgroups.symm)
  obtain ⟨u', hi', hui⟩ := exec_congr hi (exec_context hj').symm (exec_regs_of_ne hj' hgroups).symm
  refine ⟨t', u', hj', hi', State.sameBut_of_regs ?_ fun g => ?_⟩
  · calc u.context = t.context := exec_context hj
      _ = s.context := exec_context hi
      _ = t'.context := (exec_context hj').symm
      _ = u'.context := (exec_context hi').symm
  · by_cases hgi : g = group i
    · subst hgi
      exact (exec_regs_of_ne hj hgroups).trans hui
    by_cases hgj : g = group j
    · subst hgj
      exact htj.trans (exec_regs_of_ne hi' hgroups.symm).symm
    calc u.regs g = t.regs g := exec_regs_of_ne hj hgj
      _ = s.regs g := exec_regs_of_ne hi hgi
      _ = t'.regs g := (exec_regs_of_ne hj' hgj).symm
      _ = u'.regs g := (exec_regs_of_ne hi' hgi).symm

end Sys2Proof.Machine
end

section
/-! The reset input (70_reset_and_hazards.md R230, R232): a step on it is `takeReset`, which gives each group of registers what it
holds in the reset state. -/

namespace Sys2Proof.Machine

/-- A step on the reset input takes that one input and resets. -/
theorem step_of_inputs_reset {s : State} {rest : List Input} (h : s.inputs = .reset :: rest) :
    step s = .next (takeReset { s with inputs := rest }) :=
  step_of_inputs_cons h

/-- The reset input leaves every group of registers as in the reset state (R230). -/
theorem takeReset_regs (s : State) (g : Group) : (takeReset s).regs g = State.reset.regs g := by
  cases g <;> rfl

/-- Settles O6: the three groups are those of the reset state, whose values R34 gives (O9); the reset touches neither the
configuration inputs, the parameters nor the other pending inputs. -/
theorem resetInputResetsEveryRegister : Obligations.ResetInputResetsEveryRegister := by
  intro s rest hin
  have hrx : (takeReset { s with inputs := rest }).rx = State.reset.rx := takeReset_regs _ .receiver
  have htx : (takeReset { s with inputs := rest }).tx = State.reset.tx := takeReset_regs _ .transmitter
  have hmot : (takeReset { s with inputs := rest }).mot = State.reset.mot := takeReset_regs _ .motion
  refine ⟨_, step_of_inputs_reset hin, ?_⟩
  rw [hrx, htx, hmot]
  obtain ⟨hrxState, hesc, hrxLen, hready, htxState, hirqEn, hdrvEn, htxLen, hcursor, hmotion⟩ := resetStateRegisterValues
  exact ⟨hrxState, hesc, hrxLen, hready, htxState, hirqEn, hdrvEn, htxLen, hcursor, hmotion,
    takeReset_out _, takeReset_node _, takeReset_params _, takeReset_inputs _⟩

end Sys2Proof.Machine
end
